-- ==== Sys2Proof/Word.lean ====
section
/-! DEFINITION. The word types of ENIGMA-CORE (00_scope.md R8, R9; 30_encoding.md R70, R71). -/

namespace Sys2Proof

/-- A command or response word: 32 bits, bit 31 most significant (R9, R70; CMDW, RSPW of R8). -/
abbrev Word := BitVec 32

/-- A byte of a byte-wide transport (20_memory.md R54), and a CHAR operand (R71). -/
abbrev Byte := BitVec 8

/-- A 5-bit operand or data field: FA, FB, FC, D0, D1, D2 (R71, R84). It may hold 26..31. -/
abbrev Field5 := BitVec 5

/-- A symbol, position or ring offset: an integer 0..25 (NSYM = 26 of R8; R13). -/
abbrev Sym26 := Fin 26

/-- A rotor type code 0..7, every one of which names a catalog entry (10_state.md R23). -/
abbrev RotorType := Fin 8

/-- A reflector code 0..2 (10_state.md R27). -/
abbrev ReflCode := Fin 3

end Sys2Proof
end

