-- ==== Sys2Proof/Syntax.lean ====
section
/-! DEFINITION. The ten commands of ECI-1, one constructor per row of spec/opcode_table.json, each with the operand
fields of its format (30_encoding.md R71, R72) as the bits the command word carries: a field may hold a value that the
command answers with an error (R74 to R78), so every value of the field is an operand. -/

namespace Sys2Proof

inductive Instr where
  /-- STATUS, OP 0x0, format N (46_system_commands.md R220). -/
  | status
  /-- CFG_ROTOR, OP 0x1, format R: SLOT, TYPE, FC = ring offset (44_config_commands.md R180). -/
  | cfgRotor (slot : BitVec 2) (type : BitVec 3) (ring : Field5)
  /-- CFG_REFL, OP 0x2, format F: FC = reflector code (R181). -/
  | cfgRefl (code : Field5)
  /-- PLUG_CLEAR, OP 0x3, format N (R182). -/
  | plugClear
  /-- PLUG_PAIR, OP 0x4, format P: FB = first letter, FC = second letter (R183). -/
  | plugPair (a b : Field5)
  /-- SET_POS, OP 0x5, format S: FA = left, FB = middle, FC = right position (R185). -/
  | setPos (left middle right : Field5)
  /-- PRESS, OP 0x6, format K: FC = key symbol (45_key_commands.md R200). -/
  | press (key : Field5)
  /-- PRESS_CHAR, OP 0x7, format C: CHAR = character code (R201). -/
  | pressChar (char : Byte)
  /-- GET_POS, OP 0x8, format N (R221). -/
  | getPos
  /-- RESET, OP 0xF, format N (R222). -/
  | reset
  deriving DecidableEq, Repr

end Sys2Proof
end

