-- ==== Sys2Proof/WellFormed.lean ====
section
/-! DEFINITION. Well-formed commands: those whose operands lie in the sets 30_encoding.md R74 to R79 define, which are
the ones an assembler may produce (R89). An ill-formed command still has an encoding and still runs: the core answers
it with E_RANGE or E_UNKNOWN (R74, R76 to R78). -/

namespace Sys2Proof

/-- R76, R78: a symbol, position or ring field holds 0..25. -/
def symbolField (f : Field5) : Bool := f.toNat < 26

/-- R74: the slot code names a slot. -/
def slotField (c : BitVec 2) : Bool := c.toNat < 3

/-- R77: the reflector code names a reflector. -/
def reflectorField (f : Field5) : Bool := f.toNat < 3

/-- The operands of the command are all in range (R74 to R79; every TYPE and every CHAR is in range). -/
def Instr.wellFormed : Instr → Bool
  | .status => true
  | .cfgRotor slot _ ring => slotField slot && symbolField ring
  | .cfgRefl code => reflectorField code
  | .plugClear => true
  | .plugPair a b => symbolField a && symbolField b
  | .setPos l m r => symbolField l && symbolField m && symbolField r
  | .press key => symbolField key
  | .pressChar _ => true
  | .getPos => true
  | .reset => true

end Sys2Proof
end

