-- ==== Sys2Proof/Decode.lean ====
section
/-! DEFINITION. Decoding and encoding of command words (30_encoding.md R70 to R73, R80, R81, R83, R87) and the byte order
of a byte-wide transport (20_memory.md R54). -/

namespace Sys2Proof

/-- Why a word (or a run of bytes) is no command. -/
inductive DecodeError where
  /-- R80: an opcode 0x9..0xE. -/
  | reservedOpcode (op : BitVec 4)
  /-- R81: a defined opcode with a reserved bit set. -/
  | reservedBits (op : BitVec 4)
  /-- Fewer than the four bytes every command has (R70). -/
  | truncated
  deriving DecidableEq, Repr

/-- What decode answers: `Illegal`, with its reason, or exactly one command (R83). -/
inductive Decoded where
  | illegal (why : DecodeError)
  | command (i : Instr)
  deriving DecidableEq, Repr

/-- The field of width n whose lowest bit is lsb (R71; `v[hi:lo]` of 00_scope.md R9). -/
def field (lsb n : Nat) (w : Word) : BitVec n := w.extractLsb' lsb n

/-- A field put at its place in an otherwise zero word. -/
def place {n : Nat} (lsb : Nat) (v : BitVec n) : Word := v.setWidth 32 <<< lsb

/-- One row of the opcode map (R73). -/
structure OpRow where
  op      : BitVec 4
  pattern : Word
  mask    : Word
  build   : Word → Instr

/-- R71: OP = CW[31:28]. -/
def fieldOP (w : Word) : BitVec 4 := field 28 4 w
/-- R71: SLOT = CW[25:24]. -/
def fieldSLOT (w : Word) : BitVec 2 := field 24 2 w
/-- R71: TYPE = CW[18:16]. -/
def fieldTYPE (w : Word) : BitVec 3 := field 16 3 w
/-- R71: FA = CW[14:10]. -/
def fieldFA (w : Word) : Field5 := field 10 5 w
/-- R71: FB = CW[9:5]. -/
def fieldFB (w : Word) : Field5 := field 5 5 w
/-- R71: FC = CW[4:0]. -/
def fieldFC (w : Word) : Field5 := field 0 5 w
/-- R71: CHAR = CW[7:0]. -/
def fieldCHAR (w : Word) : Byte := field 0 8 w

/-- The opcode map OPMAP of R73, row for row. -/
def opMap : List OpRow :=
  [ ⟨0x0#4, 0x00000000#32, 0xFFFFFFFF#32, fun _ => .status⟩,
    ⟨0x1#4, 0x10000000#32, 0xFCF8FFE0#32, fun w => .cfgRotor (fieldSLOT w) (fieldTYPE w) (fieldFC w)⟩,
    ⟨0x2#4, 0x20000000#32, 0xFFFFFFE0#32, fun w => .cfgRefl (fieldFC w)⟩,
    ⟨0x3#4, 0x30000000#32, 0xFFFFFFFF#32, fun _ => .plugClear⟩,
    ⟨0x4#4, 0x40000000#32, 0xFFFFFC00#32, fun w => .plugPair (fieldFB w) (fieldFC w)⟩,
    ⟨0x5#4, 0x50000000#32, 0xFFFF8000#32, fun w => .setPos (fieldFA w) (fieldFB w) (fieldFC w)⟩,
    ⟨0x6#4, 0x60000000#32, 0xFFFFFFE0#32, fun w => .press (fieldFC w)⟩,
    ⟨0x7#4, 0x70000000#32, 0xFFFFFF00#32, fun w => .pressChar (fieldCHAR w)⟩,
    ⟨0x8#4, 0x80000000#32, 0xFFFFFFFF#32, fun _ => .getPos⟩,
    ⟨0xF#4, 0xF0000000#32, 0xFFFFFFFF#32, fun _ => .reset⟩ ]

/-- R83: total on the 2^32 words. -/
def decode (w : Word) : Decoded :=
  match opMap.find? (fun row => row.op == fieldOP w) with
  | none => .illegal (.reservedOpcode (fieldOP w))
  | some row =>
    if w &&& row.mask = row.pattern then .command (row.build w)
    else .illegal (.reservedBits (fieldOP w))

/-- R54: byte 0, the lowest address, carries bits [7:0]. -/
def wordOfBytes (b0 b1 b2 b3 : Byte) : Word :=
  place 0 b0 ||| place 8 b1 ||| place 16 b2 ||| place 24 b3

/-- R54: the four bytes of a word, lowest address first. -/
def bytesOfWord (w : Word) : List Byte := [field 0 8 w, field 8 8 w, field 16 8 w, field 24 8 w]

/-- A command read from a byte-wide transport, with the bytes after it (R54, R70: four bytes, no shorter or longer form). -/
def decodeBytes : List Byte → Decoded × List Byte
  | b0 :: b1 :: b2 :: b3 :: rest => (decode (wordOfBytes b0 b1 b2 b3), rest)
  | short => (.illegal .truncated, short)

/-- The command word of a command: its row's fixed bits (R73) and its fields at their places (R71, R72). -/
def encode : Instr → Word
  | .status => 0x00000000#32
  | .cfgRotor slot type ring => 0x10000000#32 ||| place 24 slot ||| place 16 type ||| place 0 ring
  | .cfgRefl code => 0x20000000#32 ||| place 0 code
  | .plugClear => 0x30000000#32
  | .plugPair a b => 0x40000000#32 ||| place 5 a ||| place 0 b
  | .setPos l m r => 0x50000000#32 ||| place 10 l ||| place 5 m ||| place 0 r
  | .press key => 0x60000000#32 ||| place 0 key
  | .pressChar char => 0x70000000#32 ||| place 0 char
  | .getPos => 0x80000000#32
  | .reset => 0xF0000000#32

/-- The four bytes of a command on a byte-wide transport (R54). -/
def encodeBytes (i : Instr) : List Byte := bytesOfWord (encode i)

/-- The table's number for an instruction: its low nbits bits of w, the bits above zero, as one 32-bit word. -/
def tableWord (nbits w : Nat) : Word := BitVec.ofNat 32 (w % 2 ^ min nbits 32)

/-- What the decoder reads from a word as spec/opcode_table.json numbers its bits: the word laid out as four bytes,
lowest address first, given to the byte decoder. -/
def decodeTableWord (nbits w : Nat) : Option Instr :=
  match (decodeBytes (bytesOfWord (tableWord nbits w))).1 with
  | .command i => some i
  | .illegal _ => none

end Sys2Proof
end

