-- ==== Sys2Proof/Config.lean ====
section
/-! DEFINITION. The configuration of ENIGMA-CORE: the catalogs it takes as parameters, with the laws of 10_state.md R32
carried by the data, and the other parameters the spec leaves to the model (U3, U12). The default tables stand in
Machine/Catalog.lean. -/

namespace Sys2Proof

/-- R32 for one rotor: the wiring is a permutation of 0..25 (an injective map of a finite set). -/
abbrev WiringLaw (wiring : Vector Sym26 26) : Prop :=
  ∀ a b : Sym26, wiring[a] = wiring[b] → a = b

/-- R32 for one notch set: 1 or 2 elements (MAXNOTCH of R8); the list that holds the set repeats none. -/
abbrev NotchLaw (notches : List Sym26) : Prop :=
  (notches.length = 1 ∨ notches.length = 2) ∧ notches.Nodup

/-- R32 for one reflector: an involution with no fixed point. -/
abbrev ReflectorLaw (wiring : Vector Sym26 26) : Prop :=
  ∀ x : Sym26, wiring[wiring[x]] = x ∧ wiring[x] ≠ x

/-- One entry of ROTOR_CATALOG (10_state.md R30). An entry that breaks R32 is not ENIGMA-CORE and cannot be built. -/
structure RotorEntry where
  wiring  : Vector Sym26 26
  notches : List Sym26
  wiringLaw : WiringLaw wiring
  notchLaw  : NotchLaw notches
  deriving DecidableEq, Repr

/-- One entry of REFLECTOR_CATALOG (10_state.md R31), lawful by R32. -/
structure ReflectorEntry where
  wiring : Vector Sym26 26
  law    : ReflectorLaw wiring
  deriving DecidableEq, Repr

/-- The parameters of ENIGMA-CORE (00_scope.md R8; 93_implementation_defined.md U2, U3, U12). -/
structure Config where
  /-- ROTOR_CATALOG: NTYPE = 8 rotor types. -/
  rotors : Vector RotorEntry 8
  /-- REFLECTOR_CATALOG: NREFL = 3 reflectors. -/
  reflectors : Vector ReflectorEntry 3
  /-- POS_FRAME_WINDOW (U3): whether SET_POS operands are window letters. -/
  posFrameWindow : Bool
  /-- ECORE_BASE / 16 (R52: the base is a multiple of 16); none where the optional binding is not mapped. -/
  ecoreBlock : Option Nat
  deriving DecidableEq, Repr

/-- ECORE_BASE (R52). -/
def Config.ecoreBase (c : Config) : Option Nat := c.ecoreBlock.map (16 * ·)

/-- Reads a list of 26 numbers as a map on symbols; none if it has another length or a number above 25. -/
def symbolTable? (l : List Nat) : Option (Vector Sym26 26) :=
  let syms := l.filterMap fun n => if h : n < 26 then some (⟨n, h⟩ : Sym26) else none
  if h : syms.length = 26 ∧ l.length = 26 then some ⟨syms.toArray, by simpa using h.1⟩ else none

/-- R32: checks a rotor the model is given and refuses it (none) if a law fails. -/
def RotorEntry.check? (wiring notches : List Nat) : Option RotorEntry :=
  match symbolTable? wiring with
  | none => none
  | some w =>
    let ns := notches.filterMap fun n => if h : n < 26 then some (⟨n, h⟩ : Sym26) else none
    if h : (WiringLaw w ∧ NotchLaw ns) ∧ ns.length = notches.length then
      some { wiring := w, notches := ns, wiringLaw := h.1.1, notchLaw := h.1.2 }
    else none

/-- R32: checks a reflector the model is given and refuses it (none) if a law fails. -/
def ReflectorEntry.check? (wiring : List Nat) : Option ReflectorEntry :=
  match symbolTable? wiring with
  | none => none
  | some w => if h : ReflectorLaw w then some { wiring := w, law := h } else none

end Sys2Proof
end

