-- ==== Sys2Proof/Machine/Catalog.lean ====
section
/-! DEFINITION. The default ROTOR_CATALOG and REFLECTOR_CATALOG, as symbols, entry for entry from the tables of
10_state.md R30 and R31 (from general knowledge by the spec's own word, 93_implementation_defined.md G1 to G3), and the
configuration the machine has at reset. The laws of R32 are checked entry by entry. -/

namespace Sys2Proof.Machine

/-- R30, code 0. Notch Q. -/
def rotorI : RotorEntry where
  wiring := #v[4,10,12,5,11,6,3,16,21,25,13,19,14,22,24,7,23,20,18,15,0,8,1,17,2,9]
  notches := [16]
  wiringLaw := by decide +kernel
  notchLaw := by decide

/-- R30, code 1. Notch E. -/
def rotorII : RotorEntry where
  wiring := #v[0,9,3,10,18,8,17,20,23,1,11,7,22,19,12,2,16,6,25,13,15,24,5,21,14,4]
  notches := [4]
  wiringLaw := by decide +kernel
  notchLaw := by decide

/-- R30, code 2. Notch V. -/
def rotorIII : RotorEntry where
  wiring := #v[1,3,5,7,9,11,2,15,17,19,23,21,25,13,24,4,8,22,6,0,10,12,20,18,16,14]
  notches := [21]
  wiringLaw := by decide +kernel
  notchLaw := by decide

/-- R30, code 3. Notch J. -/
def rotorIV : RotorEntry where
  wiring := #v[4,18,14,21,15,25,9,0,24,16,20,8,17,7,23,11,13,5,19,6,10,3,2,12,22,1]
  notches := [9]
  wiringLaw := by decide +kernel
  notchLaw := by decide

/-- R30, code 4. Notch Z. -/
def rotorV : RotorEntry where
  wiring := #v[21,25,1,17,6,8,19,24,20,15,18,3,13,7,11,23,0,22,12,9,16,14,5,4,2,10]
  notches := [25]
  wiringLaw := by decide +kernel
  notchLaw := by decide

/-- R30, code 5. Notches Z and M. -/
def rotorVI : RotorEntry where
  wiring := #v[9,15,6,21,14,20,12,5,24,16,1,4,13,7,25,17,3,10,0,18,23,11,8,2,19,22]
  notches := [25, 12]
  wiringLaw := by decide +kernel
  notchLaw := by decide

/-- R30, code 6. Notches Z and M. -/
def rotorVII : RotorEntry where
  wiring := #v[13,25,9,7,6,17,2,23,12,24,18,22,1,14,20,5,0,8,21,11,15,4,10,16,3,19]
  notches := [25, 12]
  wiringLaw := by decide +kernel
  notchLaw := by decide

/-- R30, code 7. Notches Z and M. -/
def rotorVIII : RotorEntry where
  wiring := #v[5,10,16,7,19,11,23,14,2,1,9,18,15,3,25,17,0,12,4,22,13,8,20,24,6,21]
  notches := [25, 12]
  wiringLaw := by decide +kernel
  notchLaw := by decide

/-- R31, code 0. -/
def reflectorA : ReflectorEntry where
  wiring := #v[4,9,12,25,0,11,24,23,21,1,22,5,2,17,16,20,14,13,19,18,15,8,10,7,6,3]
  law := by decide +kernel

/-- R31, code 1. -/
def reflectorB : ReflectorEntry where
  wiring := #v[24,17,20,7,16,18,11,3,15,23,13,6,14,10,12,8,4,1,5,25,2,22,21,9,0,19]
  law := by decide +kernel

/-- R31, code 2. -/
def reflectorC : ReflectorEntry where
  wiring := #v[5,21,15,9,8,0,14,24,4,3,17,25,23,22,6,2,19,10,20,16,18,1,13,12,7,11]
  law := by decide +kernel

/-- R30, R75: type codes 0..7 are I..VIII. -/
def defaultRotors : Vector RotorEntry 8 :=
  #v[rotorI, rotorII, rotorIII, rotorIV, rotorV, rotorVI, rotorVII, rotorVIII]

/-- R31, R77: reflector codes 0..2 are A, B, C. -/
def defaultReflectors : Vector ReflectorEntry 3 := #v[reflectorA, reflectorB, reflectorC]

/-- The configuration at reset: the default catalogs, POS_FRAME_WINDOW at its default true (U3), and no memory-mapped
binding (DESIGN CHOICE, safe, log entry 5: ECORE_BASE is OPEN and the binding optional, R52). -/
def defaultConfig : Config where
  rotors := defaultRotors
  reflectors := defaultReflectors
  posFrameWindow := true
  ecoreBlock := none

end Sys2Proof.Machine
end

