-- ==== Sys2Proof/Machine/State.lean ====
section
/-! DEFINITION. The state of ENIGMA-CORE (10_state.md R20 to R29, R36, R37): the architectural state, the fixed
configuration it is built with, and the model's own record of the host (log entry 2). -/

namespace Sys2Proof.Machine

/-- PHASE (R21). The reserved value 3, which no rule writes, is left out of the type as R21 allows (DEDUCED, safe,
log entry 10). -/
inductive Phase where
  | config
  | ready
  | fault
  deriving DecidableEq, Repr

/-- A slot index: 0 left (slow), 1 middle, 2 right (fast) (R20, 30_encoding.md R74). -/
inductive SlotId where
  | left
  | middle
  | right
  deriving DecidableEq, Repr

/-- SLOT[i] (R22 to R25). -/
structure Slot where
  /-- R22: CFG_ROTOR has written the slot since the last reset. -/
  valid : Bool
  /-- R23: rotor type code. -/
  type : RotorType
  /-- R24: position, in the window frame. -/
  pos : Sym26
  /-- R25: ring offset. -/
  ring : Sym26
  deriving DecidableEq, Repr

/-- REFL (R27). -/
structure Reflector where
  valid : Bool
  id    : ReflCode
  deriving DecidableEq, Repr

/-- The error codes 1..9 of 60_exceptions.md R240. -/
inductive ErrCode where
  | illegal
  | range
  | unknown
  | plug
  | locked
  | incomplete
  | notReady
  | misuse
  | fault
  deriving DecidableEq, Repr

/-- What the outside may do to the core, one action at a time (20_memory.md R51, R52; 70_reset_and_hazards.md R270, R278). -/
inductive HostAction where
  /-- Present a command word on the command channel (R51). -/
  | command (cw : Word)
  /-- Read RSP on the response channel (R51, R57). -/
  | readRsp
  /-- Assert the reset input (R270). -/
  | resetInput
  /-- A read of `bytes` bytes at a byte address, through the optional binding (R52). -/
  | busRead (addr bytes : Nat)
  /-- A write of these bytes, lowest address first, at a byte address (R52, R54). -/
  | busWrite (addr : Nat) (data : List Byte)
  deriving DecidableEq, Repr

/-- What the host has seen: (command, response) pairs (R57) and the values its reads returned. -/
inductive Observation where
  | response (cw rsp : Word)
  | rspRead (value : Word)
  | busData (addr : Nat) (data : List Byte)
  deriving DecidableEq, Repr

/-- Why a step stops with a fault. No command ever does: errors are responses (R240). -/
inductive Fault where
  /-- Raised by a bus access whose first byte lies outside the 16-byte window of R52 (also one that starts below it and
  reaches into it: DESIGN CHOICE), or any bus access where the optional binding is not mapped: R251 gives the core no
  other address. Safe: the model stops (log entry 7). -/
  | noSuchAddress
  deriving DecidableEq, Repr

/-- Why a step is refused. -/
inductive Refusal where
  /-- Raised by an arm of exec whose instruction has no meaning yet; no arm does. Safe: the model stops. -/
  | notModelled (mnemonic : String)
  /-- Raised by a narrow, wide or misaligned bus access inside the window: R55, "A model refuses any such access".
  Safe: the model stops (log entry 6). -/
  | busAccessNotDefined
  deriving DecidableEq, Repr

/-- The machine. The fields down to rsp are the architectural state, exactly that of R20; cfg is the fixed
configuration (R29, log entry 3); pending and observed are the model's own (log entry 2). -/
structure State where
  /-- R21. -/
  phase : Phase
  /-- SLOT[0], slow (R22 to R25). -/
  left : Slot
  /-- SLOT[1]. -/
  middle : Slot
  /-- SLOT[2], fast. -/
  right : Slot
  /-- PLUG[0..25] (R26). -/
  plug : Vector Sym26 26
  /-- R27. -/
  refl : Reflector
  /-- R28: the response word of the last command that completed. -/
  rsp : Word
  /-- The catalogs and other parameters; constant (R29). -/
  cfg : Config
  /-- The host's accepted actions, not yet performed, oldest first (R36, R57). -/
  pending : List HostAction
  /-- What the host has seen, newest first. -/
  observed : List Observation
  deriving DecidableEq, Repr

/-- R37: a slot after reset. -/
def Slot.reset : Slot := { valid := false, type := 0, pos := 0, ring := 0 }

/-- R37: REFL after reset. -/
def Reflector.reset : Reflector := { valid := false, id := 0 }

/-- R37: PLUG after reset, the identity. -/
def identityPlug : Vector Sym26 26 := Vector.ofFn fun k => k

/-- The machine right after reset (R37, R270, R271), with the default configuration, no command waiting and nothing
observed (DESIGN CHOICE, log entries 1, 2, 3). -/
def State.reset : State where
  phase := .config
  left := Slot.reset
  middle := Slot.reset
  right := Slot.reset
  plug := identityPlug
  refl := Reflector.reset
  rsp := 0x00000000#32
  cfg := defaultConfig
  pending := []
  observed := []

end Sys2Proof.Machine
end

