-- ==== Sys2Proof/Machine/Flags.lean ====
section
/-! DEFINITION. The flags of ENIGMA-CORE and the response word that carries them. R35: there are no condition codes; the
one-bit signals are the at-notch signals and the VALID bit, and the 4-bit ERR field. Response word: 30_encoding.md R84,
R85; error codes: 60_exceptions.md R240. -/

namespace Sys2Proof.Machine

/-- R240: the code of an error. -/
def ErrCode.code : ErrCode → BitVec 4
  | .illegal => 1#4
  | .range => 2#4
  | .unknown => 3#4
  | .plug => 4#4
  | .locked => 5#4
  | .incomplete => 6#4
  | .notReady => 7#4
  | .misuse => 8#4
  | .fault => 9#4

/-- R240: OK. -/
def okCode : BitVec 4 := 0#4

/-- R21: the value of PHASE. -/
def Phase.code : Phase → BitVec 2
  | .config => 0#2
  | .ready => 1#2
  | .fault => 2#2

/-- R84: the response word from its fields; bits 24 and 15 are 0. -/
def responseWord (err : BitVec 4) (phase : Phase) (valid : Bool) (ochar : Byte) (d2 d1 d0 : Field5) : Word :=
  place 28 err ||| place 26 phase.code ||| place 25 (BitVec.ofBool valid) ||| place 16 ochar
    ||| place 10 d2 ||| place 5 d1 ||| place 0 d0

/-- R85: the error response, code and phase after the command, every other field 0. -/
def errorWord (e : ErrCode) (phaseAfter : Phase) : Word := responseWord e.code phaseAfter false 0#8 0#5 0#5 0#5

/-- ERR = RW[31:28] (R84). -/
def rspERR (w : Word) : BitVec 4 := field 28 4 w
/-- PHASE = RW[27:26] (R84). -/
def rspPHASE (w : Word) : BitVec 2 := field 26 2 w
/-- VALID = RW[25] (R84). -/
def rspVALID (w : Word) : BitVec 1 := field 25 1 w
/-- RW[24], which is 0 (R84). -/
def rspBit24 (w : Word) : BitVec 1 := field 24 1 w
/-- OCHAR = RW[23:16] (R84). -/
def rspOCHAR (w : Word) : Byte := field 16 8 w
/-- RW[15], which is 0 (R84). -/
def rspBit15 (w : Word) : BitVec 1 := field 15 1 w
/-- D2 = RW[14:10] (R84). -/
def rspD2 (w : Word) : Field5 := field 10 5 w
/-- D1 = RW[9:5] (R84). -/
def rspD1 (w : Word) : Field5 := field 5 5 w
/-- D0 = RW[4:0] (R84). -/
def rspD0 (w : Word) : Field5 := field 0 5 w

/-- R104: the notch test, `p ∈ ROMN(t)`; the ring offset does not enter. -/
def atNotch (c : Config) (t : RotorType) (p : Sym26) : Bool := c.rotors[t].notches.contains p

/-- R35, R100: the at-notch signal of a slot. -/
def notchSignal (c : Config) (s : Slot) : Bool := atNotch c s.type s.pos

end Sys2Proof.Machine
end

