-- ==== Sys2Proof/Machine/Operands.lean ====
section
/-! DEFINITION. The operand forms of ECI-1 (30_encoding.md R74 to R79, R87): how each field's bits are read, and which
values the command must answer with an error. -/

namespace Sys2Proof.Machine

/-- R76, R78: a 5-bit symbol, position or ring field; none for 26..31, which raises E_RANGE. -/
def symbolOf? (f : Field5) : Option Sym26 :=
  if h : f.toNat < 26 then some ⟨f.toNat, h⟩ else none

/-- R74: the slot code; none for 3, which raises E_RANGE. -/
def slotOf? (c : BitVec 2) : Option SlotId :=
  if c = 0#2 then some .left
  else if c = 1#2 then some .middle
  else if c = 2#2 then some .right
  else none

/-- R75: the rotor type code; all eight are defined. -/
def rotorTypeOf (t : BitVec 3) : RotorType := t.toFin

/-- R77: the reflector code; none for 3..31, which raises E_UNKNOWN. -/
def reflectorOf? (f : Field5) : Option ReflCode :=
  if h : f.toNat < 3 then some ⟨f.toNat, h⟩ else none

/-- R79: the letter a character code stands for, capital or small; none for a non-letter. -/
def letterOf? (c : Byte) : Option Sym26 :=
  if h : 0x41 ≤ c.toNat ∧ c.toNat ≤ 0x5A then some ⟨c.toNat - 0x41, by omega⟩
  else if h : 0x61 ≤ c.toNat ∧ c.toNat ≤ 0x7A then some ⟨c.toNat - 0x61, by omega⟩
  else none

/-- A symbol in a 5-bit field (zero-extension, R9, R71). -/
def fieldOfSymbol (x : Sym26) : Field5 := BitVec.ofNat 5 x.val

/-- R84, R200: the ASCII capital of a symbol, 0x41 + y. -/
def capitalOf (y : Sym26) : Byte := BitVec.ofNat 8 (0x41 + y.val)

end Sys2Proof.Machine
end

