-- ==== Sys2Proof/Machine/Ops.lean ====
section
/-! DEFINITION. The named operations of ENIGMA-CORE: mod-26 arithmetic, the named updates of State, the four units
(rotor, reflector, plugboard, step controller) and the pipeline over them, responses, raising an error (the exception of
this hardware) and the reset that leaves the fault phase, and the prelude every command passes. -/

namespace Sys2Proof.Machine

/-! ### Arithmetic (00_scope.md R10) -/

/-- R10: the residue of an integer modulo 26, also of a negative one. -/
def mod26 (v : Int) : Sym26 := ⟨(v % 26).toNat, by omega⟩

/-! ### Named updates of State -/

/-- SLOT[i] (R20). -/
def State.slot (s : State) : SlotId → Slot
  | .left => s.left
  | .middle => s.middle
  | .right => s.right

/-- SLOT[i] written whole. -/
def State.withSlot (s : State) (i : SlotId) (v : Slot) : State :=
  match i with
  | .left => { s with left := v }
  | .middle => { s with middle := v }
  | .right => { s with right := v }

/-- SLOT[i].pos written, the slot's other fields kept (R24). -/
def State.withPos (s : State) (i : SlotId) (p : Sym26) : State := s.withSlot i { s.slot i with pos := p }

/-- PHASE written (R21). -/
def State.withPhase (s : State) (p : Phase) : State := { s with phase := p }

/-- RSP written (R28). -/
def State.withRsp (s : State) (w : Word) : State := { s with rsp := w }

/-- PLUG written (R26). -/
def State.withPlug (s : State) (m : Vector Sym26 26) : State := { s with plug := m }

/-- REFL written (R27). -/
def State.withRefl (s : State) (r : Reflector) : State := { s with refl := r }

/-- The host's record grows by one (R57; the model's own field). -/
def State.observe (s : State) (o : Observation) : State := { s with observed := o :: s.observed }

/-! ### Rotor unit (40_rotor.md) -/

/-- ROMW(t, k) (00_scope.md R11, 10_state.md R30). -/
def romW (c : Config) (t : RotorType) (k : Sym26) : Sym26 := c.rotors[t].wiring[k]

/-- ROMWI(t, k): the symbol that the wiring takes to k (R30: the inverse permutation). -/
def romWI (c : Config) (t : RotorType) (k : Sym26) : Sym26 :=
  ((List.finRange 26).find? fun j => romW c t j == k).getD 0

/-- ROMU(u, k) (R11, R31). -/
def romU (c : Config) (u : ReflCode) (k : Sym26) : Sym26 := c.reflectors[u].wiring[k]

/-- R101: the core offset of a wiring, `mod26(p - g)`. -/
def coreOffset (g p : Sym26) : Sym26 := mod26 ((p : Int) - (g : Int))

/-- R102: the forward substitution. -/
def rotorFwd (c : Config) (t : RotorType) (g p x : Sym26) : Sym26 :=
  let s := coreOffset g p
  mod26 ((romW c t (mod26 ((x : Int) + (s : Int))) : Int) - (s : Int))

/-- R103: the backward substitution. -/
def rotorBwd (c : Config) (t : RotorType) (g p x : Sym26) : Sym26 :=
  let s := coreOffset g p
  mod26 ((romWI c t (mod26 ((x : Int) + (s : Int))) : Int) - (s : Int))

/-- R105: one step of a position. -/
def rotorStep (p : Sym26) : Sym26 := mod26 ((p : Int) + 1)

/-- R100: the forward output of the rotor unit of a slot. -/
def Slot.fwd (c : Config) (v : Slot) (x : Sym26) : Sym26 := rotorFwd c v.type v.ring v.pos x

/-- R100: the backward output of the rotor unit of a slot. -/
def Slot.bwd (c : Config) (v : Slot) (x : Sym26) : Sym26 := rotorBwd c v.type v.ring v.pos x

/-! ### Reflector and plugboard (41_reflector_plugboard.md) -/

/-- R120: the reflector substitution. -/
def reflect (c : Config) (u : ReflCode) (x : Sym26) : Sym26 := romU c u x

/-- R123: the plugboard substitution. -/
def swap (plug : Vector Sym26 26) (x : Sym26) : Sym26 := plug[x]

/-- R26, R220: how many symbols are plugged, halved. -/
def pairCount (plug : Vector Sym26 26) : Nat :=
  (List.finRange 26).countP (fun k => swap plug k != k) / 2

/-- R183: one pair entered in both directions. -/
def addPair (plug : Vector Sym26 26) (a b : Sym26) : Vector Sym26 26 := (plug.set a b).set b a

/-! ### Step controller (42_step_controller.md) -/

/-- R105: the step applied to one slot's position. -/
def State.stepSlot (s : State) (i : SlotId) : State := s.withPos i (rotorStep (s.slot i).pos)

/-- R140: the stepping procedure, one call per key press. Both tests read the positions before any step (R149). -/
def stepController (s : State) : State :=
  let mN := notchSignal s.cfg s.middle
  let rN := notchSignal s.cfg s.right
  let s₁ :=
    if mN then (s.stepSlot .middle).stepSlot .left
    else if rN then s.stepSlot .middle
    else s
  s₁.stepSlot .right

/-! ### Character pipeline (43_pipeline.md) -/

/-- R160: the signal path of one key press, at the positions of the state it is given. -/
def pipeline (s : State) (x : Sym26) : Sym26 :=
  let y0 := swap s.plug x
  let y1 := s.right.fwd s.cfg y0
  let y2 := s.middle.fwd s.cfg y1
  let y3 := s.left.fwd s.cfg y2
  let y4 := reflect s.cfg s.refl.id y3
  let y5 := s.left.bwd s.cfg y4
  let y6 := s.middle.bwd s.cfg y5
  let y7 := s.right.bwd s.cfg y6
  swap s.plug y7

/-! ### Responses, errors, reset -/

/-- R11, R84, R86: ends a command with ERR = OK and these fields, at the phase the command leaves. -/
def respondWith (s : State) (valid : Bool) (ochar : Byte) (d2 d1 d0 : Field5) : State :=
  s.withRsp (responseWord okCode s.phase valid ochar d2 d1 d0)

/-- R86: a success response with no field listed. -/
def respond (s : State) : State := respondWith s false 0#8 0#5 0#5 0#5

/-- R11, R85, R243, R245: `raise Err(code)`, the one way this hardware takes an exception. E_MISUSE enters FAULT; no
other state but RSP changes. -/
def raiseErr (e : ErrCode) (s : State) : State :=
  let s' := if e = .misuse then s.withPhase .fault else s
  s'.withRsp (errorWord e s'.phase)

/-- R222, R270: every state element returns to its reset value (R37), RSP to 0x00000000. This is the only way out of
FAULT (R244). The configuration and the host's own fields are no state elements (R29; DEDUCED, log entry 8). -/
def resetCore (s : State) : State :=
  { State.reset with cfg := s.cfg, pending := s.pending, observed := s.observed }

/-- R241: the part of the common prelude that follows decoding. STATUS and RESET do not pass it. -/
def afterPrelude (s : State) (body : State → State) : Host.Outcome State Fault Refusal :=
  .next (if s.phase = .fault then raiseErr .fault s else body s)

/-- R180 to R184: a configuration command, which READY locks. -/
def configCommand (s : State) (body : State → State) : Host.Outcome State Fault Refusal :=
  afterPrelude s fun s => if s.phase = .ready then raiseErr .locked s else body s

/-- R200, R201, R221: a command that needs positions. -/
def readyCommand (s : State) (body : State → State) : Host.Outcome State Fault Refusal :=
  afterPrelude s fun s => if s.phase = .config then raiseErr .notReady s else body s

/-- R161, R200, R201: one key press, the step first, then the substitution at the positions after the step. -/
def keyPress (x : Sym26) (s : State) : State :=
  let s' := stepController s
  let y := pipeline s' x
  respondWith s' true (capitalOf y) 0#5 0#5 (fieldOfSymbol y)

/-- R185, U3: the window position that a SET_POS operand stands for. With POS_FRAME_WINDOW the operand itself; without
it the operand is the core offset q = mod26(pos - ring) of R33 (DEDUCED, unsafe, log entry 4). -/
def initialPos (c : Config) (ring operand : Sym26) : Sym26 :=
  if c.posFrameWindow then operand else mod26 ((operand : Int) + (ring : Int))

/-- R185, R186: the configuration is complete. -/
def configured (s : State) : Bool := s.left.valid && s.middle.valid && s.right.valid && s.refl.valid

/-- R220: the configuration mask, REFL.valid in bit 3, SLOT[2], SLOT[1], SLOT[0] in bits 2, 1, 0, bit 4 zero. -/
def configMask (s : State) : Field5 :=
  (BitVec.ofBool s.refl.valid).setWidth 5 <<< 3 ||| (BitVec.ofBool s.right.valid).setWidth 5 <<< 2
    ||| (BitVec.ofBool s.middle.valid).setWidth 5 <<< 1 ||| (BitVec.ofBool s.left.valid).setWidth 5

end Sys2Proof.Machine
end

