-- ==== Sys2Proof/Machine/ConfigCommands.lean ====
section
/-! DEFINITION. The configuration commands (44_config_commands.md R180 to R187). Each checks in the order of
60_exceptions.md R242. -/

namespace Sys2Proof.Machine

/-- CFG_ROTOR (R180). The position is not touched. -/
def execCfgRotor (slot : BitVec 2) (type : BitVec 3) (ring : Field5) (s : State) : Host.Outcome State Fault Refusal :=
  configCommand s fun s =>
    match slotOf? slot, symbolOf? ring with
    | some i, some g =>
      respond (s.withSlot i { s.slot i with type := rotorTypeOf type, ring := g, valid := true })
    | _, _ => raiseErr .range s

/-- CFG_REFL (R181). -/
def execCfgRefl (code : Field5) (s : State) : Host.Outcome State Fault Refusal :=
  configCommand s fun s =>
    match reflectorOf? code with
    | some u => respond (s.withRefl { valid := true, id := u })
    | none => raiseErr .unknown s

/-- PLUG_CLEAR (R182). -/
def execPlugClear (s : State) : Host.Outcome State Fault Refusal :=
  configCommand s fun s => respond (s.withPlug identityPlug)

/-- PLUG_PAIR (R183). -/
def execPlugPair (fb fc : Field5) (s : State) : Host.Outcome State Fault Refusal :=
  configCommand s fun s =>
    match symbolOf? fb, symbolOf? fc with
    | some a, some b =>
      if a = b then raiseErr .plug s
      else if swap s.plug a ≠ a ∨ swap s.plug b ≠ b then raiseErr .plug s
      else respond (s.withPlug (addPair s.plug a b))
    | _, _ => raiseErr .range s

/-- SET_POS (R185, R186). -/
def execSetPos (fa fb fc : Field5) (s : State) : Host.Outcome State Fault Refusal :=
  afterPrelude s fun s =>
    if s.phase = .ready then raiseErr .misuse s
    else
      match symbolOf? fa, symbolOf? fb, symbolOf? fc with
      | some l, some m, some r =>
        if configured s then
          respond
            ((((s.withPos .left (initialPos s.cfg s.left.ring l)).withPos .middle
              (initialPos s.cfg s.middle.ring m)).withPos .right (initialPos s.cfg s.right.ring r)).withPhase .ready)
        else raiseErr .incomplete s
      | _, _, _ => raiseErr .range s

end Sys2Proof.Machine
end

