-- ==== Sys2Proof/Machine/KeyCommands.lean ====
section
/-! DEFINITION. The key commands (45_key_commands.md R200, R201). -/

namespace Sys2Proof.Machine

/-- PRESS (R200). An out-of-range symbol raises E_RANGE before any step. -/
def execPress (key : Field5) (s : State) : Host.Outcome State Fault Refusal :=
  readyCommand s fun s =>
    match symbolOf? key with
    | some x => keyPress x s
    | none => raiseErr .range s

/-- PRESS_CHAR (R201). A non-letter is skipped: no step, no output, no error (R254). -/
def execPressChar (char : Byte) (s : State) : Host.Outcome State Fault Refusal :=
  readyCommand s fun s =>
    match letterOf? char with
    | some x => keyPress x s
    | none => respond s

end Sys2Proof.Machine
end

