-- ==== Sys2Proof/Machine/SystemCommands.lean ====
section
/-! DEFINITION. The system commands (46_system_commands.md R220 to R222). STATUS and RESET run in every phase (R241). -/

namespace Sys2Proof.Machine

/-- STATUS (R220): the pair count in D1, the configuration mask in D0. Nothing but RSP changes. -/
def execStatus (s : State) : Host.Outcome State Fault Refusal :=
  .next (respondWith s false 0#8 0#5 (BitVec.ofNat 5 (pairCount s.plug)) (configMask s))

/-- GET_POS (R221): the three window positions; no step. -/
def execGetPos (s : State) : Host.Outcome State Fault Refusal :=
  readyCommand s fun s =>
    respondWith s false 0#8 (fieldOfSymbol s.left.pos) (fieldOfSymbol s.middle.pos) (fieldOfSymbol s.right.pos)

/-- RESET (R222): the reset state, and RSP = 0x00000000. -/
def execReset (s : State) : Host.Outcome State Fault Refusal := .next (respond (resetCore s))

end Sys2Proof.Machine
end

