-- ==== Sys2Proof/Machine/Dispatch.lean ====
section
/-! DEFINITION. One arm per command of the opcode table (60_exceptions.md R241, `body(d)`). -/

namespace Sys2Proof.Machine

def exec (i : Instr) (s : State) : Host.Outcome State Fault Refusal :=
  match i with
  | .status => Sys2Proof.Machine.execStatus s
  | .cfgRotor slot type ring => Sys2Proof.Machine.execCfgRotor slot type ring s
  | .cfgRefl code => Sys2Proof.Machine.execCfgRefl code s
  | .plugClear => Sys2Proof.Machine.execPlugClear s
  | .plugPair a b => Sys2Proof.Machine.execPlugPair a b s
  | .setPos l m r => Sys2Proof.Machine.execSetPos l m r s
  | .press key => Sys2Proof.Machine.execPress key s
  | .pressChar char => Sys2Proof.Machine.execPressChar char s
  | .getPos => Sys2Proof.Machine.execGetPos s
  | .reset => Sys2Proof.Machine.execReset s

end Sys2Proof.Machine
end

