-- ==== Sys2Proof/Machine/Interface.lean ====
section
/-! DEFINITION. The command interface: executing a command word (60_exceptions.md R241), the command and response channel
(20_memory.md R51, R57), the reset input (70_reset_and_hazards.md R270), the optional memory-mapped binding (R52 to R55),
and running a sequence of command words (R277). -/

namespace Sys2Proof.Machine

/-- R241: `execute(CW)`. A word that is no command raises E_ILLEGAL in any phase (R80, R81). -/
def execute (cw : Word) (s : State) : Host.Outcome State Fault Refusal :=
  match decode cw with
  | .illegal _ => .next (raiseErr .illegal s)
  | .command i => exec i s

/-- One command accepted, executed and its response made readable, as one atomic step (R51, R56); the host's record takes
the (command, response) pair (R57). -/
def runCommand (cw : Word) (s : State) : Host.Outcome State Fault Refusal :=
  match execute cw s with
  | .next t => .next (t.observe (.response cw t.rsp))
  | .fault r => .fault r
  | .refused r => .refused r

/-- The offset of a byte address in the 16-byte window of R52; none outside it, or where the binding is not mapped.
The first byte's address alone decides: an access that starts below the window and reaches into it, on which R55 is
silent, is outside (DESIGN CHOICE, safe, log entry 7). -/
def busOffset? (c : Config) (addr : Nat) : Option Nat :=
  match c.ecoreBase with
  | none => none
  | some base => if base ≤ addr ∧ addr < base + 16 then some (addr - base) else none

/-- R55: the only supported access, a full 32 bits at an offset that is a multiple of 4. -/
def busSupported (offset bytes : Nat) : Bool := bytes == 4 && offset % 4 == 0

/-- R52: what a supported read returns: RSP at 0x4, zero at CMD and at the reserved offsets. No effect on any state (R53). -/
def busReadValue (offset : Nat) (s : State) : Word := if offset = 4 then s.rsp else 0x00000000#32

/-- R52, R53, R55: a bus read. -/
def busRead (addr bytes : Nat) (s : State) : Host.Outcome State Fault Refusal :=
  match busOffset? s.cfg addr with
  | none => .fault .noSuchAddress
  | some off =>
    if busSupported off bytes then .next (s.observe (.busData addr (bytesOfWord (busReadValue off s))))
    else .refused .busAccessNotDefined

/-- R52 to R55: a bus write. A word written to CMD is executed as one command, its bytes little-endian (R54); a write to
RSP or to a reserved offset is ignored. -/
def busWrite (addr : Nat) (data : List Byte) (s : State) : Host.Outcome State Fault Refusal :=
  match busOffset? s.cfg addr with
  | none => .fault .noSuchAddress
  | some off =>
    if busSupported off data.length then
      match off, data with
      | 0, [b0, b1, b2, b3] => runCommand (wordOfBytes b0 b1 b2 b3) s
      | _, _ => .next s
    else .refused .busAccessNotDefined

/-- One action of the host, performed between commands (R56, R57, R270). -/
def perform (a : HostAction) (s : State) : Host.Outcome State Fault Refusal :=
  match a with
  | .command cw => runCommand cw s
  | .readRsp => .next (s.observe (.rspRead s.rsp))
  | .resetInput => .next (resetCore s)
  | .busRead addr bytes => busRead addr bytes s
  | .busWrite addr data => busWrite addr data s

/-- Performs the oldest action that waits. Between commands the core holds its state and does nothing (R246, R253). -/
def performNext (s : State) : Host.Outcome State Fault Refusal :=
  match s.pending with
  | [] => .next s
  | a :: rest => perform a { s with pending := rest }

/-- The host's next action: a command word put in front of all that wait. -/
def State.withCommand (s : State) (cw : Word) : State := { s with pending := .command cw :: s.pending }

/-- R277: a program as the core sees it, a finite sequence of command words: the responses in order, and the state after
the last response; none if a command does not complete (no command fails to). -/
def issueAll : List Word → State → Option (List Word × State)
  | [], s => some ([], s)
  | cw :: rest, s =>
    match execute cw s with
    | .next t =>
      match issueAll rest t with
      | some (rs, u) => some (t.rsp :: rs, u)
      | none => none
    | _ => none

end Sys2Proof.Machine
end

