-- ==== Sys2Proof/Machine/Step.lean ====
section
/-! DEFINITION. One step of the machine: one action of the host, or nothing where none waits. -/

namespace Sys2Proof.Machine

/-- One step (00_scope.md R14: the core executes one command per step). -/
def step (s : State) : Host.Outcome State Fault Refusal := performNext s

/-- The instruction w of nbits table bits, presented as the host's next command (log entry 1). -/
def State.withFetchWord (s : State) (nbits w : Nat) : State := s.withCommand (tableWord nbits w)

end Sys2Proof.Machine
end

