-- ==== Sys2Proof/Machine/Assembler.lean ====
section
/-! DEFINITION. The assembler notation of ECI-1 and its pseudo-instructions (30_encoding.md R89, R90). Text is a list of
characters. Points R89 leaves open are chosen in log entry 15: operands are written in capitals, a number is decimal or
hexadecimal with 0x (a slot number only a single digit), a `;` inside quotes is no comment, a double quote cannot stand
inside a string, no blank is needed where a comma or a quote parts two words, and a quoted character has a code below
256. -/

namespace Sys2Proof.Machine

/-- A line of an ECI-1 program, its operands already read (R89, and the pseudo-instructions of R90). -/
inductive AsmLine where
  | status
  | rotor (slot : SlotId) (type : RotorType) (ring : Sym26)
  | refl (code : ReflCode)
  | plugClr
  | plug (a b : Sym26)
  | setPos (l m r : Sym26)
  | press (x : Sym26)
  | pressC (c : Byte)
  | getPos
  | reset
  | nop
  | plugs (pairs : List (Sym26 × Sym26))
  | key (letters : List Sym26)
  | text (chars : List Byte)
  | machine (t0 t1 t2 : RotorType) (g0 g1 g2 : Sym26) (u : ReflCode) (pairs : List (Sym26 × Sym26)) (l m r : Sym26)
  deriving DecidableEq, Repr

/-- R74: the code of a slot. -/
def slotCode : SlotId → BitVec 2
  | .left => 0#2
  | .middle => 1#2
  | .right => 2#2

/-- CFG_ROTOR with these operands. -/
def rotorInstr (i : SlotId) (t : RotorType) (g : Sym26) : Instr :=
  .cfgRotor (slotCode i) (BitVec.ofFin t) (fieldOfSymbol g)

/-- CFG_REFL with this operand. -/
def reflInstr (u : ReflCode) : Instr := .cfgRefl (BitVec.ofNat 5 u.val)

/-- PLUG_PAIR with these operands. -/
def plugInstr (p : Sym26 × Sym26) : Instr := .plugPair (fieldOfSymbol p.1) (fieldOfSymbol p.2)

/-- SET_POS with these operands. -/
def setPosInstr (l m r : Sym26) : Instr := .setPos (fieldOfSymbol l) (fieldOfSymbol m) (fieldOfSymbol r)

/-- PRESS with this operand. -/
def pressInstr (x : Sym26) : Instr := .press (fieldOfSymbol x)

/-- R89, R90: the commands a line expands to. -/
def AsmLine.instrs : AsmLine → List Instr
  | .status => [.status]
  | .rotor i t g => [rotorInstr i t g]
  | .refl u => [reflInstr u]
  | .plugClr => [.plugClear]
  | .plug a b => [plugInstr (a, b)]
  | .setPos l m r => [setPosInstr l m r]
  | .press x => [pressInstr x]
  | .pressC c => [.pressChar c]
  | .getPos => [.getPos]
  | .reset => [.reset]
  | .nop => [.status]
  | .plugs pairs => pairs.map plugInstr
  | .key letters => letters.map pressInstr
  | .text chars => chars.map .pressChar
  | .machine t0 t1 t2 g0 g1 g2 u pairs l m r =>
    [.reset, rotorInstr .left t0 g0, rotorInstr .middle t1 g1, rotorInstr .right t2 g2, reflInstr u]
      ++ pairs.map plugInstr ++ [setPosInstr l m r]

/-! ### Reading a line -/

/-- The pieces of a line: a bare word, a comma, a quoted string, a quoted character. -/
inductive AsmToken where
  | word (w : List Char)
  | comma
  | quoted (w : List Char)
  | char (c : Char)
  deriving DecidableEq, Repr

/-- A word read so far (backwards), as a token, in front of the tokens after it. -/
def flushWord (acc : List Char) (rest : List AsmToken) : List AsmToken :=
  match acc with
  | [] => rest
  | _ => .word acc.reverse :: rest

/-- Cuts a line into tokens, up to its comment (R89: `;` starts a comment). `str` holds an open string, read backwards;
none for a string left open. There is no escape, so the next double quote always ends a string
(R90 does not say how one is written inside it), and blanks part words but are needed nowhere beside a comma or a quote
(R89 and R90 are silent): both DESIGN CHOICE, safe, log entry 15. -/
def lexLine : List Char → (str : Option (List Char)) → (acc : List Char) → Option (List AsmToken)
  | [], none, acc => some (flushWord acc [])
  | [], some _, _ => none
  | c :: rest, some q, acc =>
    if c = '"' then (lexLine rest none []).map fun ts => flushWord acc (.quoted q.reverse :: ts)
    else lexLine rest (some (c :: q)) acc
  | '\'' :: c :: '\'' :: rest, none, acc => (lexLine rest none []).map fun ts => flushWord acc (.char c :: ts)
  | c :: rest, none, acc =>
    if c = ';' then some (flushWord acc [])
    else if c = '"' then (lexLine rest (some []) []).map fun ts => flushWord acc ts
    else if c = ',' then (lexLine rest none []).map fun ts => flushWord acc (.comma :: ts)
    else if c = ' ' ∨ c = '\t' then (lexLine rest none []).map fun ts => flushWord acc ts
    else lexLine rest none (c :: acc)

/-- A letter made capital; any other character kept (R89: mnemonics are case-insensitive). -/
def upperChar (c : Char) : Char :=
  if 0x61 ≤ c.toNat ∧ c.toNat ≤ 0x7A then Char.ofNat (c.toNat - 0x20) else c

/-- R12: the symbol a capital letter shows. -/
def letterSymbol? (c : Char) : Option Sym26 :=
  if h : 0x41 ≤ c.toNat ∧ c.toNat ≤ 0x5A then some ⟨c.toNat - 0x41, by omega⟩ else none

/-- A run of capital letters; none if another character stands in it. -/
def letters? : List Char → Option (List Sym26)
  | [] => some []
  | c :: rest =>
    match letterSymbol? c, letters? rest with
    | some x, some xs => some (x :: xs)
    | _, _ => none

/-- The value of a digit, decimal or hexadecimal; a hexadecimal digit may be a capital or a small letter (DESIGN CHOICE,
safe, log entry 15). -/
def digit? (base : Nat) (c : Char) : Option Nat :=
  let n := c.toNat
  let v := if 0x30 ≤ n ∧ n ≤ 0x39 then n - 0x30
    else if 0x41 ≤ n ∧ n ≤ 0x46 then n - 0x37
    else if 0x61 ≤ n ∧ n ≤ 0x66 then n - 0x57
    else base
  if v < base then some v else none

/-- Digits read onto the value of the ones before them. -/
def digits? (base : Nat) : List Char → Nat → Option Nat
  | [], v => some v
  | c :: rest, v =>
    match digit? base c with
    | some d => digits? base rest (base * v + d)
    | none => none

/-- A number, decimal, or hexadecimal with a small 0x (R9); leading zeros are allowed (DESIGN CHOICE, safe, log
entry 15). -/
def number? : List Char → Option Nat
  | [] => none
  | ['0', 'x'] => none
  | '0' :: 'x' :: ds => digits? 16 ds 0
  | ds => digits? 10 ds 0

/-- R89: `<slot>` is L, M, R or 0..2. A number here is exactly one of the digits 0, 1, 2, with no leading zero and no 0x
form (DESIGN CHOICE, safe, log entry 15). -/
def asmSlot? (w : List Char) : Option SlotId :=
  if w = ['L'] ∨ w = ['0'] then some .left
  else if w = ['M'] ∨ w = ['1'] then some .middle
  else if w = ['R'] ∨ w = ['2'] then some .right
  else none

/-- R89, R75: `<type>` is a roman numeral I..VIII. -/
def asmType? (w : List Char) : Option RotorType :=
  if w = ['I'] then some 0
  else if w = ['I', 'I'] then some 1
  else if w = ['I', 'I', 'I'] then some 2
  else if w = ['I', 'V'] then some 3
  else if w = ['V'] then some 4
  else if w = ['V', 'I'] then some 5
  else if w = ['V', 'I', 'I'] then some 6
  else if w = ['V', 'I', 'I', 'I'] then some 7
  else none

/-- R89, R76, R87: `<ring>` is a ring setting 1..26 or a letter A..Z; the assembler subtracts the 1. -/
def asmRing? (w : List Char) : Option Sym26 :=
  match letters? w with
  | some [x] => some x
  | _ =>
    match number? w with
    | some n => if h : 1 ≤ n ∧ n ≤ 26 then some ⟨n - 1, by omega⟩ else none
    | none => none

/-- R89: A, B or C. -/
def asmRefl? (w : List Char) : Option ReflCode :=
  if w = ['A'] then some 0
  else if w = ['B'] then some 1
  else if w = ['C'] then some 2
  else none

/-- A quoted character as a byte. -/
def charByte? (c : Char) : Option Byte := if c.toNat < 256 then some (BitVec.ofNat 8 c.toNat) else none

/-- The bytes of a quoted string (R90, TEXT). -/
def bytes? : List Char → Option (List Byte)
  | [] => some []
  | c :: rest =>
    match charByte? c, bytes? rest with
    | some b, some bs => some (b :: bs)
    | _, _ => none

/-- R90: letter pairs separated by single spaces; an empty string holds none. -/
def pairs? : List Char → Option (List (Sym26 × Sym26))
  | [] => some []
  | [a, b] =>
    match letterSymbol? a, letterSymbol? b with
    | some x, some y => some [(x, y)]
    | _, _ => none
  | a :: b :: ' ' :: c :: rest =>
    match letterSymbol? a, letterSymbol? b, pairs? (c :: rest) with
    | some x, some y, some ps => some ((x, y) :: ps)
    | _, _, _ => none
  | _ => none

/-- The operands of a line read by its mnemonic, in capitals (R89, R90); none for an operand outside the sets of R89. -/
def parseOperands (mnemonic : List Char) (ops : List AsmToken) : Option AsmLine :=
  if mnemonic = ['S', 'T', 'A', 'T', 'U', 'S'] then
    match ops with
    | [] => some .status
    | _ => none
  else if mnemonic = ['R', 'O', 'T', 'O', 'R'] then
    match ops with
    | [.word s, .comma, .word t, .comma, .word g] =>
      match asmSlot? s, asmType? t, asmRing? g with
      | some i, some t, some g => some (.rotor i t g)
      | _, _, _ => none
    | _ => none
  else if mnemonic = ['R', 'E', 'F', 'L'] then
    match ops with
    | [.word u] => (asmRefl? u).map .refl
    | _ => none
  else if mnemonic = ['P', 'L', 'U', 'G', 'C', 'L', 'R'] then
    match ops with
    | [] => some .plugClr
    | _ => none
  else if mnemonic = ['P', 'L', 'U', 'G'] then
    match ops with
    | [.word w] =>
      match letters? w with
      | some [a, b] => some (.plug a b)
      | _ => none
    | _ => none
  else if mnemonic = ['S', 'E', 'T', 'P', 'O', 'S'] then
    match ops with
    | [.word w] =>
      match letters? w with
      | some [l, m, r] => some (.setPos l m r)
      | _ => none
    | _ => none
  else if mnemonic = ['P', 'R', 'E', 'S', 'S'] then
    match ops with
    | [.word w] =>
      match letters? w with
      | some [x] => some (.press x)
      | _ => none
    | _ => none
  else if mnemonic = ['P', 'R', 'E', 'S', 'S', 'C'] then
    match ops with
    | [.char c] => (charByte? c).map .pressC
    | [.word w] =>
      match number? w with
      | some n => if n < 256 then some (.pressC (BitVec.ofNat 8 n)) else none
      | none => none
    | _ => none
  else if mnemonic = ['G', 'E', 'T', 'P', 'O', 'S'] then
    match ops with
    | [] => some .getPos
    | _ => none
  else if mnemonic = ['R', 'E', 'S', 'E', 'T'] then
    match ops with
    | [] => some .reset
    | _ => none
  else if mnemonic = ['N', 'O', 'P'] then
    match ops with
    | [] => some .nop
    | _ => none
  else if mnemonic = ['P', 'L', 'U', 'G', 'S'] then
    match ops with
    | [.quoted w] => (pairs? w).map .plugs
    | _ => none
  else if mnemonic = ['K', 'E', 'Y'] then
    match ops with
    | [.quoted w] => (letters? w).map .key
    | _ => none
  else if mnemonic = ['T', 'E', 'X', 'T'] then
    match ops with
    | [.quoted w] => (bytes? w).map .text
    | _ => none
  else if mnemonic = ['M', 'A', 'C', 'H', 'I', 'N', 'E'] then
    match ops with
    | [.word t0, .word t1, .word t2, .comma, .word g0, .word g1, .word g2, .comma, .word u, .comma, .quoted ps,
        .comma, .word w] =>
      match asmType? t0, asmType? t1, asmType? t2, asmRing? g0, asmRing? g1, asmRing? g2, asmRefl? u, pairs? ps, letters? w with
      | some t0, some t1, some t2, some g0, some g1, some g2, some u, some ps, some [l, m, r] =>
        some (.machine t0 t1 t2 g0 g1 g2 u ps l m r)
      | _, _, _, _, _, _, _, _, _ => none
    | _ => none
  else none

/-- R89: one line; `some []` for a line with no command, none for a line the assembler rejects. -/
def parseLine (line : List Char) : Option (List AsmLine) :=
  match lexLine line none [] with
  | some [] => some []
  | some (.word m :: ops) => (parseOperands (m.map upperChar) ops).map ([·])
  | _ => none

/-- R89, R90: the command words of a program given as its lines; none if the assembler rejects a line. -/
def assemble : List (List Char) → Option (List Word)
  | [] => some []
  | line :: rest =>
    match parseLine line, assemble rest with
    | some ls, some ws => some ((ls.flatMap AsmLine.instrs).map encode ++ ws)
    | _, _ => none

end Sys2Proof.Machine
end

