-- ==== Sys2Proof/Machine/Instances.lean ====
section
/-! DEFINITION. Several instances of ENIGMA-CORE side by side (60_exceptions.md R252): they share no state and carry no
identifier but their place in the list. -/

namespace Sys2Proof.Machine

/-- One step of the k-th instance of a system; nothing where there is no k-th instance. A stop of one instance stops only
the step that was asked for. -/
def stepInstance (k : Nat) (system : List State) : Host.Outcome (List State) Fault Refusal :=
  match system[k]? with
  | none => .next system
  | some s =>
    match step s with
    | .next t => .next (system.set k t)
    | .fault r => .fault r
    | .refused r => .refused r

end Sys2Proof.Machine
end

