-- ==== Sys2Proof/Safety.lean ====
section
/-! DEFINITION. What counts as a good state and a safe run of ENIGMA-CORE, and the vocabulary that claims use: the
invariants of 10_state.md R26, R34 and 30_encoding.md R84, the error priority of 60_exceptions.md R242, and the relation
of states that no command can tell apart (10_state.md R37). -/

namespace Sys2Proof.Machine

/-- R26, R34 (d): the plugboard is an involution. -/
abbrev PlugInvolution (plug : Vector Sym26 26) : Prop := ∀ k : Sym26, swap plug (swap plug k) = k

/-- R34 (e): READY implies a complete configuration. -/
abbrev ReadyConfigured (s : State) : Prop := s.phase = .ready → configured s = true

/-- R84, R240: the response register reads as the layout says: the phase it shows is the phase, the reserved bits are 0,
the code is none of 10..15, and OCHAR is the capital of D0 exactly when VALID is set. -/
abbrev ResponseLawful (s : State) : Prop :=
  rspPHASE s.rsp = s.phase.code ∧ rspBit24 s.rsp = 0#1 ∧ rspBit15 s.rsp = 0#1 ∧ (rspERR s.rsp).toNat ≤ 9
    ∧ (rspVALID s.rsp = 1#1 →
        rspERR s.rsp = 0#4 ∧ s.phase = .ready ∧ (rspD0 s.rsp).toNat < 26
          ∧ (rspOCHAR s.rsp).toNat = 0x41 + (rspD0 s.rsp).toNat)
    ∧ (rspVALID s.rsp = 0#1 → rspOCHAR s.rsp = 0#8)

/-- The invariant of the machine (R26, R34, R84). -/
structure Inv (s : State) : Prop where
  plug     : PlugInvolution s.plug
  ready    : ReadyConfigured s
  response : ResponseLawful s

/-- R244: a state no misuse has reached; a claim about a run may take it as a premise. -/
abbrev SafeState (s : State) : Prop := s.phase ≠ .fault

/-- R244: a run of n steps that ends in a state, every state on the way free of misuse. -/
def SafeRun : Nat → State → State → Prop
  | 0, s, t => s = t ∧ SafeState s
  | n + 1, s, t => SafeState s ∧ ∃ u, step s = .next u ∧ SafeRun n u t

/-! ### Error priority (60_exceptions.md R242) -/

/-- R184: the commands READY locks. -/
def isConfigCommand : Instr → Bool
  | .cfgRotor .. | .cfgRefl .. | .plugClear | .plugPair .. => true
  | .status | .setPos .. | .press .. | .pressChar .. | .getPos | .reset => false

/-- R240: the commands that need positions. -/
def needsPositions : Instr → Bool
  | .press .. | .pressChar .. | .getPos => true
  | .status | .cfgRotor .. | .cfgRefl .. | .plugClear | .plugPair .. | .setPos .. | .reset => false

/-- Class 2: the fault phase. -/
def faultClass (i : Instr) (s : State) : Option ErrCode :=
  if s.phase = .fault ∧ i ≠ .status ∧ i ≠ .reset then some .fault else none

/-- Class 3: the phase check. -/
def phaseClass (i : Instr) (s : State) : Option ErrCode :=
  match i, s.phase with
  | .setPos .., .ready => some .misuse
  | i, .ready => if isConfigCommand i then some .locked else none
  | i, .config => if needsPositions i then some .notReady else none
  | _, .fault => none

/-- Class 4: the operand range check. -/
def rangeClass (i : Instr) : Option ErrCode :=
  if i.wellFormed then none
  else
    match i with
    | .cfgRefl _ => some .unknown
    | _ => some .range

/-- Class 5: the semantic check, on the operand values themselves. -/
def semanticClass (i : Instr) (s : State) : Option ErrCode :=
  match i with
  | .plugPair a b =>
    if a = b ∨ (∃ k : Sym26, (k.val = a.toNat ∨ k.val = b.toNat) ∧ swap s.plug k ≠ k) then some .plug else none
  | .setPos .. => if configured s then none else some .incomplete
  | _ => none

/-- R242: of the errors that apply to a command word, the one that is reported; none where none applies. -/
def reportedError (cw : Word) (s : State) : Option ErrCode :=
  match decode cw with
  | .illegal _ => some .illegal
  | .command i =>
    (faultClass i s).or ((phaseClass i s).or ((rangeClass i).or (semanticClass i s)))

/-! ### Words and orders that claims name -/

/-- A PRESS word as R72 writes it: 0x6 in the top four bits, the symbol in the low five. -/
def pressWord (x : Sym26) : Word := 0x60000000#32 ||| BitVec.ofNat 32 x.val

/-- A PRESS_CHAR word as R72 writes it. -/
def pressCharWord (c : Byte) : Word := 0x70000000#32 ||| BitVec.ofNat 32 c.toNat

/-- The ten rows of the opcode map, written out from R73: opcode, match, mask. -/
def opcodeRows : List (Nat × Word × Word) :=
  [(0x0, 0x00000000#32, 0xFFFFFFFF#32), (0x1, 0x10000000#32, 0xFCF8FFE0#32), (0x2, 0x20000000#32, 0xFFFFFFE0#32),
   (0x3, 0x30000000#32, 0xFFFFFFFF#32), (0x4, 0x40000000#32, 0xFFFFFC00#32), (0x5, 0x50000000#32, 0xFFFF8000#32),
   (0x6, 0x60000000#32, 0xFFFFFFE0#32), (0x7, 0x70000000#32, 0xFFFFFF00#32), (0x8, 0x80000000#32, 0xFFFFFFFF#32),
   (0xF, 0xF0000000#32, 0xFFFFFFFF#32)]

/-- R187: two configuration commands whose order may not matter: not two writes of one slot, not two of the reflector,
not a pair and a clearing of all pairs. -/
def orderFree : Instr → Instr → Bool
  | .cfgRotor a _ _, .cfgRotor b _ _ => a != b
  | .cfgRefl _, .cfgRefl _ => false
  | .plugClear, .plugPair _ _ => false
  | .plugPair _ _, .plugClear => false
  | i, j => isConfigCommand i && isConfigCommand j

/-! ### States that no command can tell apart (10_state.md R37, U14) -/

/-- Two slots alike where a command can look: the type and the ring offset only once the slot is configured. -/
def SlotAlike (v w : Slot) : Prop := v.valid = w.valid ∧ (v.valid = true → v.type = w.type ∧ v.ring = w.ring)

/-- R37, last column: two states that differ only in fields no command can observe before they are written. -/
structure Alike (s t : State) : Prop where
  phase    : s.phase = t.phase
  left     : SlotAlike s.left t.left
  middle   : SlotAlike s.middle t.middle
  right    : SlotAlike s.right t.right
  pos      : s.phase ≠ .config → s.left.pos = t.left.pos ∧ s.middle.pos = t.middle.pos ∧ s.right.pos = t.right.pos
  plug     : s.plug = t.plug
  refl     : s.refl.valid = t.refl.valid ∧ (s.refl.valid = true → s.refl.id = t.refl.id)
  rsp      : s.rsp = t.rsp
  cfg      : s.cfg = t.cfg
  pending  : s.pending = t.pending
  observed : s.observed = t.observed

end Sys2Proof.Machine
end

