-- ==== Sys2Proof/Certificates/Slice0/Obligations.lean ====
section
/-! DEFINITION. The statements about the model, for the provers. Each docstring names the rule of spec/ it formalises. A
record update names every field a command may change; the fields it does not name are unchanged. -/

open Sys2Proof Sys2Proof.Machine

/-! ### Encoding -/

/-- R71 to R73, R54: decoding an encoded command gives it back, with every operand at every value its field holds, as a
word and as four bytes with the bytes after them. -/
def Obligations.DecodeInvertsEncode : Prop :=
  ∀ (i : Instr) (rest : List Byte),
    decode (encode i) = .command i ∧ decodeBytes (encodeBytes i ++ rest) = (.command i, rest)

/-- R83: a command word stands for one command only: encoding what was decoded gives the word back. -/
def Obligations.EncodeInvertsDecode : Prop :=
  ∀ (w : Word) (i : Instr), decode w = .command i → encode i = w

/-- R73: a word is a command exactly when it matches a row of the opcode map. -/
def Obligations.DecodeAcceptsTheOpcodeRows : Prop :=
  ∀ w : Word, (∃ i, decode w = .command i) ↔ ∃ row ∈ opcodeRows, w &&& row.2.2 = row.2.1

/-- R89: the example words of the assembler table, each written from the patterns of R72. -/
def Obligations.ExampleWordsDecode : Prop :=
  decode 0x00000000#32 = .command .status ∧ decode 0x12020000#32 = .command (.cfgRotor 2#2 2#3 0#5)
    ∧ decode 0x20000001#32 = .command (.cfgRefl 1#5) ∧ decode 0x30000000#32 = .command .plugClear
    ∧ decode 0x40000001#32 = .command (.plugPair 0#5 1#5) ∧ decode 0x50000813#32 = .command (.setPos 2#5 0#5 19#5)
    ∧ decode 0x60000016#32 = .command (.press 22#5) ∧ decode 0x70000020#32 = .command (.pressChar 0x20#8)
    ∧ decode 0x80000000#32 = .command .getPos ∧ decode 0xF0000000#32 = .command .reset

/-- R54: byte k of a word carries its bits 8k to 8k+7, and the four bytes give the word back to the decoder. -/
def Obligations.BytesAreLittleEndian : Prop :=
  ∀ (w : Word) (rest : List Byte),
    (∀ k : Nat, k < 4 → (bytesOfWord w)[k]? = some (BitVec.ofNat 8 (w.toNat / 2 ^ (8 * k))))
      ∧ decodeBytes (bytesOfWord w ++ rest) = (decode w, rest)

/-! ### The step -/

/-- A step runs the decoded command: with a command word as the oldest waiting action, the step is exec of that command at
the state with the action taken off, and the host's record grows by the (command, response) pair (R51, R56, R57, R241). -/
def Obligations.StepRunsTheDecodedCommand : Prop :=
  ∀ (s : State) (w : Word) (i : Instr) (rest : List HostAction),
    s.pending = .command w :: rest → decode w = .command i →
      ∃ t, exec i { s with pending := rest } = .next t
        ∧ step s = .next { t with observed := .response w t.rsp :: t.observed }

/-- The instruction the host presents with withFetchWord is the one the next step runs (log entry 1). -/
def Obligations.FetchWordIsRunNext : Prop :=
  ∀ (s : State) (nbits w : Nat) (i : Instr),
    decodeTableWord nbits w = some i →
      ∃ t, exec i s = .next t
        ∧ step (s.withFetchWord nbits w)
            = .next { t with observed := .response (BitVec.ofNat 32 (w % 2 ^ min nbits 32)) t.rsp :: t.observed }

/-- R80, R81: a reserved opcode, or a reserved bit set under a defined opcode, answers E_ILLEGAL in every phase, and nothing
but RSP changes. -/
def Obligations.IllegalWordsAnswerIllegal : Prop :=
  ∀ (s : State) (w : Word),
    ((9 ≤ w.toNat / 2 ^ 28 ∧ w.toNat / 2 ^ 28 ≤ 14)
        ∨ ∃ row ∈ opcodeRows, w.toNat / 2 ^ 28 = row.1 ∧ w &&& row.2.2 ≠ row.2.1) →
      (s.phase = .config → execute w s = .next { s with rsp := 0x10000000#32 })
        ∧ (s.phase = .ready → execute w s = .next { s with rsp := 0x14000000#32 })
        ∧ (s.phase = .fault → execute w s = .next { s with rsp := 0x18000000#32 })

/-- R246, R253: with no action of the host the machine holds its state. -/
def Obligations.NothingHappensWithoutAHostAction : Prop :=
  ∀ s : State, s.pending = [] → step s = .next s

/-- R53, R57: reading RSP shows the response of the last completed command and has no other effect. -/
def Obligations.ReadingRspHasNoSideEffect : Prop :=
  ∀ (s : State) (rest : List HostAction),
    s.pending = .readRsp :: rest →
      step s = .next { s with pending := rest, observed := .rspRead s.rsp :: s.observed }

/-- R270: the reset input, in every phase, sets every state element to its reset value, as RESET does. The model's, not
the spec's: that the parameters, the waiting actions and the host's record survive (DEDUCED, log entry 8); and the zeros of
type, ring, pos and REFL.id are values no claim may depend on (U14; log entry 9). -/
def Obligations.ResetInputActsAsReset : Prop :=
  ∀ (s : State) (rest : List HostAction),
    s.pending = .resetInput :: rest →
      ∃ t, exec .reset { s with pending := rest } = .next t ∧ step s = .next t
        ∧ t = { s with
            phase := .config, left := { valid := false, type := 0, pos := 0, ring := 0 },
            middle := { valid := false, type := 0, pos := 0, ring := 0 },
            right := { valid := false, type := 0, pos := 0, ring := 0 }, plug := t.plug,
            refl := { valid := false, id := 0 }, rsp := 0x00000000#32, pending := rest }
        ∧ ∀ k : Sym26, t.plug[k] = k

/-- No command ever stops the machine, nor does a reset or a read of RSP: only a bus access can (R240, R278, R279). -/
def Obligations.OnlyBusAccessesCanStop : Prop :=
  ∀ s : State,
    (∀ addr bytes rest, s.pending ≠ .busRead addr bytes :: rest) →
    (∀ addr data rest, s.pending ≠ .busWrite addr data :: rest) → ∃ t, step s = .next t

/-- R57: running the machine over the commands that wait logs the (command, response) pairs in acceptance order. -/
def Obligations.RunLogsResponsesInAcceptanceOrder : Prop :=
  ∀ (s : State) (ws : List Word),
    s.pending = ws.map .command →
      ∃ rs t, issueAll ws { s with pending := [] } = some (rs, t) ∧ rs.length = ws.length
        ∧ Host.Core.run Sys2Proof.core ws.length s
            = .next { t with observed := (List.zipWith Observation.response ws rs).reverse ++ s.observed }

/-! ### Configuration commands -/

/-- R180: CFG_ROTOR. -/
def Obligations.CfgRotorMeaning : Prop :=
  ∀ (s : State) (slot : BitVec 2) (type : BitVec 3) (ring : Field5),
    (s.phase = .config → ∀ g : Sym26, ring.toNat = g.val →
        (slot = 0#2 → exec (.cfgRotor slot type ring) s = .next { s with
            left := { valid := true, type := type.toFin, pos := s.left.pos, ring := g }, rsp := 0x00000000#32 })
        ∧ (slot = 1#2 → exec (.cfgRotor slot type ring) s = .next { s with
            middle := { valid := true, type := type.toFin, pos := s.middle.pos, ring := g }, rsp := 0x00000000#32 })
        ∧ (slot = 2#2 → exec (.cfgRotor slot type ring) s = .next { s with
            right := { valid := true, type := type.toFin, pos := s.right.pos, ring := g }, rsp := 0x00000000#32 }))
    ∧ (s.phase = .config → (slot = 3#2 ∨ 26 ≤ ring.toNat) →
        exec (.cfgRotor slot type ring) s = .next { s with rsp := 0x20000000#32 })
    ∧ (s.phase = .ready → exec (.cfgRotor slot type ring) s = .next { s with rsp := 0x54000000#32 })
    ∧ (s.phase = .fault → exec (.cfgRotor slot type ring) s = .next { s with rsp := 0x98000000#32 })

/-- R181: CFG_REFL. -/
def Obligations.CfgReflMeaning : Prop :=
  ∀ (s : State) (code : Field5),
    (s.phase = .config → ∀ u : ReflCode, code.toNat = u.val →
        exec (.cfgRefl code) s = .next { s with refl := { valid := true, id := u }, rsp := 0x00000000#32 })
    ∧ (s.phase = .config → 3 ≤ code.toNat → exec (.cfgRefl code) s = .next { s with rsp := 0x30000000#32 })
    ∧ (s.phase = .ready → exec (.cfgRefl code) s = .next { s with rsp := 0x54000000#32 })
    ∧ (s.phase = .fault → exec (.cfgRefl code) s = .next { s with rsp := 0x98000000#32 })

/-- R182: PLUG_CLEAR. -/
def Obligations.PlugClearMeaning : Prop :=
  ∀ s : State,
    (s.phase = .config → ∃ m : Vector Sym26 26, (∀ k : Sym26, m[k] = k)
        ∧ exec .plugClear s = .next { s with plug := m, rsp := 0x00000000#32 })
    ∧ (s.phase = .ready → exec .plugClear s = .next { s with rsp := 0x54000000#32 })
    ∧ (s.phase = .fault → exec .plugClear s = .next { s with rsp := 0x98000000#32 })

/-- R183: PLUG_PAIR. -/
def Obligations.PlugPairMeaning : Prop :=
  ∀ (s : State) (fb fc : Field5),
    (s.phase = .config → ∀ a b : Sym26, fb.toNat = a.val → fc.toNat = b.val →
        (a ≠ b → s.plug[a] = a → s.plug[b] = b →
          ∃ m : Vector Sym26 26, m[a] = b ∧ m[b] = a ∧ (∀ k : Sym26, k ≠ a → k ≠ b → m[k] = s.plug[k])
            ∧ exec (.plugPair fb fc) s = .next { s with plug := m, rsp := 0x00000000#32 })
        ∧ ((a = b ∨ s.plug[a] ≠ a ∨ s.plug[b] ≠ b) →
          exec (.plugPair fb fc) s = .next { s with rsp := 0x40000000#32 }))
    ∧ (s.phase = .config → (26 ≤ fb.toNat ∨ 26 ≤ fc.toNat) →
        exec (.plugPair fb fc) s = .next { s with rsp := 0x20000000#32 })
    ∧ (s.phase = .ready → exec (.plugPair fb fc) s = .next { s with rsp := 0x54000000#32 })
    ∧ (s.phase = .fault → exec (.plugPair fb fc) s = .next { s with rsp := 0x98000000#32 })

/-- R185, R186: SET_POS, its operands window letters (POS_FRAME_WINDOW, U3, at its default). -/
def Obligations.SetPosMeaning : Prop :=
  ∀ (s : State) (fa fb fc : Field5),
    (s.phase = .config → ∀ l m r : Sym26, fa.toNat = l.val → fb.toNat = m.val → fc.toNat = r.val →
        (s.cfg.posFrameWindow = true → s.left.valid = true → s.middle.valid = true → s.right.valid = true →
          s.refl.valid = true →
          exec (.setPos fa fb fc) s = .next { s with
            phase := .ready, left := { s.left with pos := l }, middle := { s.middle with pos := m },
            right := { s.right with pos := r }, rsp := 0x04000000#32 })
        ∧ ((s.left.valid = false ∨ s.middle.valid = false ∨ s.right.valid = false ∨ s.refl.valid = false) →
          exec (.setPos fa fb fc) s = .next { s with rsp := 0x60000000#32 }))
    ∧ (s.phase = .config → (26 ≤ fa.toNat ∨ 26 ≤ fb.toNat ∨ 26 ≤ fc.toNat) →
        exec (.setPos fa fb fc) s = .next { s with rsp := 0x20000000#32 })
    ∧ (s.phase = .ready → exec (.setPos fa fb fc) s = .next { s with phase := .fault, rsp := 0x88000000#32 })
    ∧ (s.phase = .fault → exec (.setPos fa fb fc) s = .next { s with rsp := 0x98000000#32 })

/-- The model's reading of POS_FRAME_WINDOW = false (93_implementation_defined.md U3; DEDUCED from R33, log entry 4, no rule
of the spec): SET_POS operands are core offsets, so that pos minus ring is the operand. -/
def Obligations.SetPosInTheCoreOffsetFrame : Prop :=
  ∀ (s : State) (fa fb fc : Field5) (l m r : Sym26),
    s.phase = .config → s.cfg.posFrameWindow = false → s.left.valid = true → s.middle.valid = true →
    s.right.valid = true → s.refl.valid = true → fa.toNat = l.val → fb.toNat = m.val → fc.toNat = r.val →
      ∃ t, exec (.setPos fa fb fc) s = .next t
        ∧ t = { s with
            phase := .ready, left := { s.left with pos := t.left.pos }, middle := { s.middle with pos := t.middle.pos },
            right := { s.right with pos := t.right.pos }, rsp := 0x04000000#32 }
        ∧ coreOffset t.left.ring t.left.pos = l ∧ coreOffset t.middle.ring t.middle.pos = m
        ∧ coreOffset t.right.ring t.right.pos = r

/-! ### Key commands and their units -/

/-- R200: PRESS, the step first, then the substitution at the positions after the step; no error steps the rotors. -/
def Obligations.PressMeaning : Prop :=
  ∀ (s : State) (key : Field5),
    (s.phase = .ready → ∀ x : Sym26, key.toNat = x.val →
        exec (.press key) s = .next { stepController s with
          rsp := 0x06000000#32 ||| BitVec.ofNat 32 (0x41 + (pipeline (stepController s) x).val) <<< 16
            ||| BitVec.ofNat 32 (pipeline (stepController s) x).val })
    ∧ (s.phase = .ready → 26 ≤ key.toNat → exec (.press key) s = .next { s with rsp := 0x24000000#32 })
    ∧ (s.phase = .config → exec (.press key) s = .next { s with rsp := 0x70000000#32 })
    ∧ (s.phase = .fault → exec (.press key) s = .next { s with rsp := 0x98000000#32 })

/-- R201, R79, R254: PRESS_CHAR, a capital or a small letter as PRESS, every other code skipped without a step. -/
def Obligations.PressCharMeaning : Prop :=
  ∀ (s : State) (char : Byte),
    (s.phase = .ready → ∀ x : Sym26, (char.toNat = 0x41 + x.val ∨ char.toNat = 0x61 + x.val) →
        exec (.pressChar char) s = .next { stepController s with
          rsp := 0x06000000#32 ||| BitVec.ofNat 32 (0x41 + (pipeline (stepController s) x).val) <<< 16
            ||| BitVec.ofNat 32 (pipeline (stepController s) x).val })
    ∧ (s.phase = .ready →
        (char.toNat < 0x41 ∨ (0x5A < char.toNat ∧ char.toNat < 0x61) ∨ 0x7A < char.toNat) →
        exec (.pressChar char) s = .next { s with rsp := 0x04000000#32 })
    ∧ (s.phase = .config → exec (.pressChar char) s = .next { s with rsp := 0x70000000#32 })
    ∧ (s.phase = .fault → exec (.pressChar char) s = .next { s with rsp := 0x98000000#32 })

/-- R140 to R145, R149, R151: what one run of the step controller does to the three positions, and that it changes nothing
else. -/
def Obligations.StepControllerMovesTheRotors : Prop :=
  ∀ s : State,
    stepController s = { s with
      left := { s.left with
        pos := if s.middle.pos ∈ s.cfg.rotors[s.middle.type].notches then Fin.ofNat 26 (s.left.pos.val + 1)
          else s.left.pos },
      middle := { s.middle with
        pos := if s.middle.pos ∈ s.cfg.rotors[s.middle.type].notches ∨ s.right.pos ∈ s.cfg.rotors[s.right.type].notches
          then Fin.ofNat 26 (s.middle.pos.val + 1) else s.middle.pos },
      right := { s.right with pos := Fin.ofNat 26 (s.right.pos.val + 1) } }

/-- R146: a key press that steps the middle rotor onto its notch under rule 2 is followed by one that steps it again. -/
def Obligations.DoubleStepping : Prop :=
  ∀ (s : State) (x y : Sym26),
    s.phase = .ready → s.middle.pos ∉ s.cfg.rotors[s.middle.type].notches →
    s.right.pos ∈ s.cfg.rotors[s.right.type].notches →
    Fin.ofNat 26 (s.middle.pos.val + 1) ∈ s.cfg.rotors[s.middle.type].notches →
      ∃ t u, exec (.press (fieldOfSymbol x)) s = .next t ∧ exec (.press (fieldOfSymbol y)) t = .next u
        ∧ u.middle.pos = Fin.ofNat 26 (s.middle.pos.val + 2) ∧ u.left.pos = Fin.ofNat 26 (s.left.pos.val + 1)
        ∧ u.right.pos = Fin.ofNat 26 (s.right.pos.val + 2)

/-- R148: the left rotor's notch is never read: with any type in the left slot a key press moves the rotors alike. -/
def Obligations.LeftNotchHasNoEffect : Prop :=
  ∀ (s : State) (other : RotorType) (x : Sym26),
    s.phase = .ready →
      ∃ t u, exec (.press (fieldOfSymbol x)) s = .next t
        ∧ exec (.press (fieldOfSymbol x)) { s with left := { s.left with type := other } } = .next u
        ∧ t.left.pos = u.left.pos ∧ t.middle.pos = u.middle.pos ∧ t.right.pos = u.right.pos

/-- R101 to R103: both substitutions in plain arithmetic, with s = (pos - ring) mod 26, and that each is a permutation. -/
def Obligations.RotorSubstitutionFormulas : Prop :=
  ∀ (c : Config) (t : RotorType) (g p : Sym26),
    (∀ x : Sym26,
      rotorFwd c t g p x = Fin.ofNat 26 ((c.rotors[t].wiring[Fin.ofNat 26 (x.val + (p.val + 26 - g.val) % 26)]).val
          + 26 - (p.val + 26 - g.val) % 26)
      ∧ c.rotors[t].wiring[Fin.ofNat 26 ((rotorBwd c t g p x).val + (p.val + 26 - g.val) % 26)]
          = Fin.ofNat 26 (x.val + (p.val + 26 - g.val) % 26))
    ∧ Function.Bijective (rotorFwd c t g p) ∧ Function.Bijective (rotorBwd c t g p)

/-- R106: the round-trip law, for every lawful catalog. -/
def Obligations.RotorRoundTrip : Prop :=
  ∀ (c : Config) (t : RotorType) (g p x : Sym26),
    rotorBwd c t g p (rotorFwd c t g p x) = x ∧ rotorFwd c t g p (rotorBwd c t g p x) = x

/-- R107, R104: the ring offset acts on the substitutions as a change of position would, and leaves the notch test alone. -/
def Obligations.RingActsAsAPositionShift : Prop :=
  ∀ (c : Config) (t : RotorType) (g p x : Sym26),
    rotorFwd c t g p x = rotorFwd c t 0 (mod26 ((p : Int) - (g : Int))) x
      ∧ rotorBwd c t g p x = rotorBwd c t 0 (mod26 ((p : Int) - (g : Int))) x
      ∧ ∀ v : Slot, notchSignal c { v with ring := g } = notchSignal c v

/-- R121: the reflector laws, for every lawful catalog. -/
def Obligations.ReflectorIsAFixedPointFreeInvolution : Prop :=
  ∀ (c : Config) (u : ReflCode) (x : Sym26), reflect c u (reflect c u x) = x ∧ reflect c u x ≠ x

/-- R160: the stages of the pipeline, in order. -/
def Obligations.PipelineStages : Prop :=
  ∀ (s : State) (x y0 y1 y2 y3 y4 y5 y6 y7 y8 : Sym26),
    y0 = s.plug[x] → y1 = rotorFwd s.cfg s.right.type s.right.ring s.right.pos y0 →
    y2 = rotorFwd s.cfg s.middle.type s.middle.ring s.middle.pos y1 →
    y3 = rotorFwd s.cfg s.left.type s.left.ring s.left.pos y2 → y4 = s.cfg.reflectors[s.refl.id].wiring[y3] →
    y5 = rotorBwd s.cfg s.left.type s.left.ring s.left.pos y4 →
    y6 = rotorBwd s.cfg s.middle.type s.middle.ring s.middle.pos y5 →
    y7 = rotorBwd s.cfg s.right.type s.right.ring s.right.pos y6 → y8 = s.plug[y7] → pipeline s x = y8

/-- R162: at a fixed state the pipeline is a permutation, an involution, and enciphers no letter to itself. -/
def Obligations.FixedStateCipher : Prop :=
  ∀ s : State, PlugInvolution s.plug →
    Function.Bijective (pipeline s) ∧ ∀ x : Sym26, pipeline s (pipeline s x) = x ∧ pipeline s x ≠ x

/-- R163: two machines with the same configuration and positions, the second fed what the first put out, gives back what
the first was fed. -/
def Obligations.EncryptionEqualsDecryption : Prop :=
  ∀ (s : State) (r : Word) (letters : List Sym26), s.phase = .ready → PlugInvolution s.plug →
    ∃ (rs : List Word) (t : State) (cipher : List Sym26) (rs' : List Word) (t' : State),
      issueAll (letters.map pressWord) s = some (rs, t) ∧ cipher.map fieldOfSymbol = rs.map rspD0
        ∧ issueAll (cipher.map pressWord) { s with rsp := r } = some (rs', t')
        ∧ rs'.map rspD0 = letters.map fieldOfSymbol

/-- R164: the positions after a number of key presses do not depend on the symbols pressed; a non-letter given to
PRESS_CHAR does not count. -/
def Obligations.SteppingIgnoresTheInput : Prop :=
  ∀ (s : State) (xs ys : List Sym26), s.phase = .ready → xs.length = ys.length →
    (∃ rs t rs' t', issueAll (xs.map pressWord) s = some (rs, t) ∧ issueAll (ys.map pressWord) s = some (rs', t')
      ∧ t' = { t with rsp := t'.rsp })
    ∧ ∀ c : Byte, letterOf? c = none → ∃ t, execute (pressCharWord c) s = .next t ∧ t = { s with rsp := t.rsp }

/-- R202: a text fed as PRESS_CHAR commands gives, at its letters and in order, what its letters give as PRESS commands,
and leaves the positions they leave. -/
def Obligations.TextConversion : Prop :=
  ∀ (s : State) (text : List Byte), s.phase = .ready →
    ∃ rs t rs' t',
      issueAll (text.map pressCharWord) s = some (rs, t)
        ∧ issueAll ((text.filterMap letterOf?).map pressWord) s = some (rs', t')
        ∧ rs.filter (fun w => rspVALID w = 1#1) = rs' ∧ rs'.length = (text.filterMap letterOf?).length
        ∧ t = { t' with rsp := t.rsp }

/-! ### System commands -/

/-- R220: STATUS, in every phase: the pair count in D1, the configuration mask in D0, nothing but RSP changed. Where the
plugboard is no involution, in states no run reaches, the count rounded down is the model's (DESIGN CHOICE, log entry 18). -/
def Obligations.StatusMeaning : Prop :=
  ∀ (s : State) (phase pairs mask : Nat),
    phase = (match s.phase with | .config => 0 | .ready => 1 | .fault => 2) →
    pairs = (Finset.univ.filter fun k : Sym26 => s.plug[k] ≠ k).card / 2 →
    mask = (if s.refl.valid then 8 else 0) + (if s.right.valid then 4 else 0) + (if s.middle.valid then 2 else 0)
      + (if s.left.valid then 1 else 0) →
      exec .status s = .next { s with
        rsp := BitVec.ofNat 32 phase <<< 26 ||| BitVec.ofNat 32 pairs <<< 5 ||| BitVec.ofNat 32 mask }

/-- R221: GET_POS. -/
def Obligations.GetPosMeaning : Prop :=
  ∀ s : State,
    (s.phase = .ready → exec .getPos s = .next { s with
        rsp := 0x04000000#32 ||| BitVec.ofNat 32 s.left.pos.val <<< 10 ||| BitVec.ofNat 32 s.middle.pos.val <<< 5
          ||| BitVec.ofNat 32 s.right.pos.val })
    ∧ (s.phase = .config → exec .getPos s = .next { s with rsp := 0x70000000#32 })
    ∧ (s.phase = .fault → exec .getPos s = .next { s with rsp := 0x98000000#32 })

/-- R222, R37: RESET, in every phase. The model's, not the spec's: that the parameters and the host's own fields stay
(DEDUCED, log entry 8); and the zeros of type, ring, pos and id are values no claim may depend on (U14; log entry 9). -/
def Obligations.ResetMeaning : Prop :=
  ∀ s : State,
    ∃ m : Vector Sym26 26, (∀ k : Sym26, m[k] = k) ∧
      exec .reset s = .next { s with
        phase := .config, left := { valid := false, type := 0, pos := 0, ring := 0 },
        middle := { valid := false, type := 0, pos := 0, ring := 0 },
        right := { valid := false, type := 0, pos := 0, ring := 0 }, plug := m,
        refl := { valid := false, id := 0 }, rsp := 0x00000000#32 }

/-- R37: the observable part of the state after reset. -/
def Obligations.ResetStateIsUnconfigured : Prop :=
  State.reset.phase = .config ∧ State.reset.left.valid = false ∧ State.reset.middle.valid = false
    ∧ State.reset.right.valid = false ∧ State.reset.refl.valid = false ∧ State.reset.rsp = 0x00000000#32
    ∧ ∀ k : Sym26, State.reset.plug[k] = k

/-! ### Whole-machine rules -/

/-- The invariant holds at reset. -/
def Obligations.ResetMeetsTheInvariant : Prop := Inv State.reset

/-- R26, R34, R84: every step keeps the invariant: the plugboard is an involution, READY implies a complete configuration,
and RSP reads as its layout says. -/
def Obligations.StepKeepsTheInvariant : Prop :=
  ∀ s t : State, Inv s → step s = .next t → Inv t

/-- R29, R61: no step changes the catalogs (R8). That no step changes the other parameters, POS_FRAME_WINDOW (U3) and
ECORE_BASE (U12), is the model's, since they are fields of cfg (DESIGN CHOICE, log entry 2), and so is that RESET and the
reset input leave them (DEDUCED, log entry 8). -/
def Obligations.NoStepChangesTheConfiguration : Prop :=
  ∀ s t : State, step s = .next t → t.cfg = s.cfg

/-- R34 (a), with R222: outside CONFIG no command but RESET writes a type, a ring offset, the reflector or the plugboard,
or a valid bit. -/
def Obligations.KeyIsFrozenOutsideConfig : Prop :=
  ∀ (i : Instr) (s t : State), exec i s = .next t → s.phase ≠ .config → i ≠ .reset →
    t.plug = s.plug ∧ t.refl = s.refl ∧ t.left = { s.left with pos := t.left.pos }
      ∧ t.middle = { s.middle with pos := t.middle.pos } ∧ t.right = { s.right with pos := t.right.pos }

/-- R34 (b) and (c), R108: a position changes only in a key command, in SET_POS and at RESET, and a key command moves each
rotor by 0 or by +1. -/
def Obligations.PositionsMoveOnlyInKeyCommands : Prop :=
  ∀ (i : Instr) (s t : State), exec i s = .next t → i ≠ .reset → (∀ l m r, i ≠ .setPos l m r) →
    ((t.left.pos = s.left.pos ∧ t.middle.pos = s.middle.pos ∧ t.right.pos = s.right.pos)
      ∨ (s.phase = .ready ∧ ((∃ k, i = .press k) ∨ ∃ c, i = .pressChar c)))
    ∧ (t.left.pos = s.left.pos ∨ t.left.pos = s.left.pos + 1)
    ∧ (t.middle.pos = s.middle.pos ∨ t.middle.pos = s.middle.pos + 1)
    ∧ (t.right.pos = s.right.pos ∨ t.right.pos = s.right.pos + 1)

/-- R38, the writes column: what each command leaves unchanged, on every path and with every operand. The clause for
RESET, that the parameters and the host's own fields stay, is the model's (DEDUCED, log entry 8) and no word of R38. -/
def Obligations.CommandsWriteOnlyTheirState : Prop :=
  ∀ s t : State,
    (exec .status s = .next t → t = { s with rsp := t.rsp })
    ∧ (∀ a b c, exec (.cfgRotor a b c) s = .next t →
        t = { s with left := t.left, middle := t.middle, right := t.right, rsp := t.rsp }
          ∧ t.left.pos = s.left.pos ∧ t.middle.pos = s.middle.pos ∧ t.right.pos = s.right.pos)
    ∧ (∀ u, exec (.cfgRefl u) s = .next t → t = { s with refl := t.refl, rsp := t.rsp })
    ∧ (exec .plugClear s = .next t → t = { s with plug := t.plug, rsp := t.rsp })
    ∧ (∀ a b, exec (.plugPair a b) s = .next t → t = { s with plug := t.plug, rsp := t.rsp })
    ∧ (∀ l m r, exec (.setPos l m r) s = .next t →
        t = { s with phase := t.phase, left := { s.left with pos := t.left.pos },
                     middle := { s.middle with pos := t.middle.pos },
                     right := { s.right with pos := t.right.pos }, rsp := t.rsp })
    ∧ (∀ x, exec (.press x) s = .next t →
        t = { s with left := { s.left with pos := t.left.pos }, middle := { s.middle with pos := t.middle.pos },
                     right := { s.right with pos := t.right.pos }, rsp := t.rsp })
    ∧ (∀ c, exec (.pressChar c) s = .next t →
        t = { s with left := { s.left with pos := t.left.pos }, middle := { s.middle with pos := t.middle.pos },
                     right := { s.right with pos := t.right.pos }, rsp := t.rsp })
    ∧ (exec .getPos s = .next t → t = { s with rsp := t.rsp })
    ∧ (exec .reset s = .next t → t = { t with cfg := s.cfg, pending := s.pending, observed := s.observed })

/-- R245: every error but E_MISUSE leaves the state as it was, except RSP. -/
def Obligations.ErrorsArePrecise : Prop :=
  ∀ (w : Word) (s t : State), execute w s = .next t → rspERR t.rsp ≠ 0#4 → rspERR t.rsp ≠ 8#4 →
    t = { s with rsp := t.rsp }

/-- R242, R240: the code a command word answers with is that of the first class of errors that applies to it. -/
def Obligations.FirstApplicableErrorIsReported : Prop :=
  ∀ (w : Word) (s : State),
    ∃ t, execute w s = .next t ∧
      rspERR t.rsp = (match reportedError w s with
        | none => 0#4
        | some .illegal => 1#4
        | some .range => 2#4
        | some .unknown => 3#4
        | some .plug => 4#4
        | some .locked => 5#4
        | some .incomplete => 6#4
        | some .notReady => 7#4
        | some .misuse => 8#4
        | some .fault => 9#4)

/-- R21: PHASE moves only from CONFIG to READY by SET_POS, from READY to FAULT by SET_POS, and to CONFIG by RESET. -/
def Obligations.PhaseMovesOnlyBySetPosAndReset : Prop :=
  ∀ (w : Word) (s t : State), execute w s = .next t → t.phase ≠ s.phase →
    (s.phase = .config ∧ t.phase = .ready ∧ ∃ l m r, decode w = .command (.setPos l m r))
      ∨ (s.phase = .ready ∧ t.phase = .fault ∧ ∃ l m r, decode w = .command (.setPos l m r))
      ∨ (t.phase = .config ∧ decode w = .command .reset)

/-- R244: in FAULT no sequence of words without RESET does anything but answer: each command but STATUS answers E_FAULT, and
the machine stays as it is but for RSP. -/
def Obligations.FaultIsLeftOnlyByReset : Prop :=
  ∀ (s : State) (ws : List Word), s.phase = .fault → 0xF0000000#32 ∉ ws →
    (∃ rs t, issueAll ws s = some (rs, t) ∧ t = { s with rsp := t.rsp })
      ∧ ∀ w ∈ ws, ∀ i, decode w = .command i → i ≠ .status → execute w s = .next { s with rsp := 0x98000000#32 }

/-- R223: STATUS and GET_POS show no type, ring offset or plugboard contents: two states alike in phase, valid bits, pair
count and positions answer alike. -/
def Obligations.StatusAndGetPosShowNoKey : Prop :=
  ∀ s t : State, s.phase = t.phase → s.left.valid = t.left.valid → s.middle.valid = t.middle.valid →
    s.right.valid = t.right.valid → s.refl.valid = t.refl.valid → pairCount s.plug = pairCount t.plug →
    s.left.pos = t.left.pos → s.middle.pos = t.middle.pos → s.right.pos = t.right.pos →
      (∃ s' t', exec .status s = .next s' ∧ exec .status t = .next t' ∧ s'.rsp = t'.rsp)
        ∧ ∃ s' t', exec .getPos s = .next s' ∧ exec .getPos t = .next t' ∧ s'.rsp = t'.rsp

/-- R37, last column, and U14: two states that differ only in fields not yet observable (the type and ring offset of an
unconfigured slot, the id of an unselected reflector, positions in CONFIG) stay so, step by step, and answer alike. -/
def Obligations.ResetValuesAreUnobservable : Prop :=
  ∀ s t : State, ReadyConfigured s → Alike s t →
    (∀ s', step s = .next s' → ∃ t', step t = .next t' ∧ Alike s' t')
      ∧ (∀ r, step s = .fault r → step t = .fault r) ∧ (∀ r, step s = .refused r → step t = .refused r)

/-- R187: two configuration commands that succeed in one order succeed in the other, with the same state, unless they write
one slot, both select the reflector, or one of them clears the pairs the other adds. -/
def Obligations.ConfigurationOrderDoesNotMatter : Prop :=
  ∀ (i j : Instr) (s t u : State), orderFree i j = true → s.phase = .config →
    exec i s = .next t → rspERR t.rsp = 0#4 → exec j t = .next u → rspERR u.rsp = 0#4 →
      ∃ v, exec j s = .next v ∧ rspERR v.rsp = 0#4 ∧ exec i v = .next u

/-- R180, R181, corner cases: a later CFG_ROTOR of the slot, or a later CFG_REFL, overwrites the earlier one. -/
def Obligations.LastConfigurationWins : Prop :=
  ∀ (s t u : State) (slot : BitVec 2) (type type' : BitVec 3) (ring ring' c c' : Field5),
    (exec (.cfgRotor slot type ring) s = .next t → exec (.cfgRotor slot type' ring') t = .next u →
        rspERR u.rsp = 0#4 → exec (.cfgRotor slot type' ring') s = .next u)
    ∧ (exec (.cfgRefl c) s = .next t → exec (.cfgRefl c') t = .next u → rspERR u.rsp = 0#4 →
        exec (.cfgRefl c') s = .next u)

/-- R126, R26: a plugboard that is an involution holds at most 13 pairs, an accepted pair adds one to the count, and with 13
no further pair is accepted. -/
def Obligations.AtMostThirteenPairs : Prop :=
  ∀ s : State, PlugInvolution s.plug → s.phase = .config →
    pairCount s.plug ≤ 13
      ∧ (∀ (a b : Field5) (t : State), exec (.plugPair a b) s = .next t → rspERR t.rsp = 0#4 →
          pairCount t.plug = pairCount s.plug + 1)
      ∧ (pairCount s.plug = 13 → ∀ a b : Sym26,
          exec (.plugPair (fieldOfSymbol a) (fieldOfSymbol b)) s = .next { s with rsp := 0x40000000#32 })

/-! ### The memory-mapped binding -/

/-- R52, R54: a word written to CMD, its bytes little-endian, is executed as the command of the command channel is. -/
def Obligations.WritingCmdExecutesTheWord : Prop :=
  ∀ (s : State) (block : Nat) (w : Word) (rest : List HostAction),
    s.cfg.ecoreBlock = some block → s.pending = .busWrite (16 * block) (bytesOfWord w) :: rest →
      step s = step { s with pending := .command w :: rest }

/-- R52, R53: every other supported access: reads of RSP, of CMD and of the reserved offsets, and the writes that are
ignored. -/
def Obligations.OtherBusAccessesHaveNoEffect : Prop :=
  ∀ (s : State) (block off : Nat) (rest : List HostAction), s.cfg.ecoreBlock = some block → off ∈ [0, 4, 8, 12] →
    (s.pending = .busRead (16 * block + off) 4 :: rest →
      step s = .next { s with
        pending := rest,
        observed := .busData (16 * block + off) (if off = 4 then bytesOfWord s.rsp else [0#8, 0#8, 0#8, 0#8])
          :: s.observed })
    ∧ (∀ b0 b1 b2 b3 : Byte, off ≠ 0 → s.pending = .busWrite (16 * block + off) [b0, b1, b2, b3] :: rest →
      step s = .next { s with pending := rest })

/-- R55: a narrow, wide or misaligned access inside the window is refused. -/
def Obligations.UndefinedBusAccessesAreRefused : Prop :=
  ∀ (s : State) (block off bytes : Nat) (data : List Byte) (rest : List HostAction),
    s.cfg.ecoreBlock = some block → off < 16 →
    (s.pending = .busRead (16 * block + off) bytes :: rest → (bytes ≠ 4 ∨ off % 4 ≠ 0) →
      step s = .refused .busAccessNotDefined)
    ∧ (s.pending = .busWrite (16 * block + off) data :: rest → (data.length ≠ 4 ∨ off % 4 ≠ 0) →
      step s = .refused .busAccessNotDefined)

/-- R252: a step of one instance leaves every other instance as it is, and is that instance's own step. -/
def Obligations.InstancesShareNothing : Prop :=
  ∀ (k : Nat) (system system' : List State), stepInstance k system = .next system' →
    system'.length = system.length ∧ (∀ j, j ≠ k → system'[j]? = system[j]?)
      ∧ ∀ s, system[k]? = some s → ∃ t, step s = .next t ∧ system'[k]? = some t

/-! ### The assembler and whole sessions -/

/-- R89: every word the assembler produces decodes to a command whose operands are in range. -/
def Obligations.AssembledWordsAreWellFormed : Prop :=
  ∀ (lines : List (List Char)) (ws : List Word), assemble lines = some ws →
    ∀ w ∈ ws, ∃ i, decode w = .command i ∧ i.wellFormed = true

/-- R272, R90: from any state the MACHINE expansion, with disjoint pairs, succeeds command by command and leaves a READY
machine with exactly the key it was given. The model's, not the spec's: the positions where POS_FRAME_WINDOW is false,
initialPos, since U3 gives no rule for that value (DEDUCED, log entry 4); and that the parameters and the host's own fields
survive the RESET (DEDUCED, log entry 8). -/
def Obligations.BootSequenceReachesReady : Prop :=
  ∀ (s : State) (t0 t1 t2 : RotorType) (g0 g1 g2 : Sym26) (u : ReflCode) (pairs : List (Sym26 × Sym26)) (l m r : Sym26),
    (pairs.flatMap fun p => [p.1, p.2]).Nodup →
      ∃ t, issueAll ((AsmLine.machine t0 t1 t2 g0 g1 g2 u pairs l m r).instrs.map encode) s
            = some (List.replicate (5 + pairs.length) 0x00000000#32 ++ [0x04000000#32], t)
        ∧ t = { s with
            phase := .ready, left := { valid := true, type := t0, pos := initialPos s.cfg g0 l, ring := g0 },
            middle := { valid := true, type := t1, pos := initialPos s.cfg g1 m, ring := g1 },
            right := { valid := true, type := t2, pos := initialPos s.cfg g2 r, ring := g2 },
            refl := { valid := true, id := u }, plug := t.plug, rsp := 0x04000000#32 }
        ∧ (∀ p ∈ pairs, t.plug[p.1] = p.2 ∧ t.plug[p.2] = p.1)
        ∧ ∀ k : Sym26, (∀ p ∈ pairs, k ≠ p.1 ∧ k ≠ p.2) → t.plug[k] = k

/-- R273, R163: RESET, the boot sequence and a text of letters, then, on any machine with the same catalogs, the same boot
sequence and the letters put out: the second run puts out the text. -/
def Obligations.RekeyedMachineDecrypts : Prop :=
  ∀ (s s' : State) (t0 t1 t2 : RotorType) (g0 g1 g2 : Sym26) (u : ReflCode) (pairs : List (Sym26 × Sym26))
    (l m r : Sym26) (letters : List Sym26),
    s'.cfg = s.cfg → (pairs.flatMap fun p => [p.1, p.2]).Nodup →
      ∃ (rs : List Word) (t : State) (cipher : List Sym26) (rs' : List Word) (t' : State),
        issueAll (((AsmLine.machine t0 t1 t2 g0 g1 g2 u pairs l m r).instrs ++ (AsmLine.key letters).instrs).map encode) s
            = some (rs, t)
          ∧ cipher.map fieldOfSymbol = (rs.drop (6 + pairs.length)).map rspD0
          ∧ issueAll (((AsmLine.machine t0 t1 t2 g0 g1 g2 u pairs l m r).instrs ++ (AsmLine.key cipher).instrs).map encode)
              s' = some (rs', t')
          ∧ (rs'.drop (6 + pairs.length)).map rspD0 = letters.map fieldOfSymbol
end

