-- ==== Sys2Proof/Laws/Operands.lean ====
section
/-! SUPPORT. What each operand reader of Machine/Operands.lean answers, in plain arithmetic on the field. -/

namespace Sys2Proof.Machine

theorem symbolOf?_eq_some {f : Field5} {x : Sym26} : symbolOf? f = some x ↔ f.toNat = x.val := by
  have hx := x.isLt
  unfold symbolOf?
  split
  · simp [Fin.ext_iff]
  · simp; omega

theorem symbolOf?_eq_none {f : Field5} : symbolOf? f = none ↔ 26 ≤ f.toNat := by
  simp [symbolOf?]

theorem reflectorOf?_eq_some {f : Field5} {u : ReflCode} : reflectorOf? f = some u ↔ f.toNat = u.val := by
  have hu := u.isLt
  unfold reflectorOf?
  split
  · simp [Fin.ext_iff]
  · simp; omega

theorem reflectorOf?_eq_none {f : Field5} : reflectorOf? f = none ↔ 3 ≤ f.toNat := by
  simp [reflectorOf?]

theorem slotOf?_eq_none {c : BitVec 2} : slotOf? c = none ↔ c = 3#2 := by
  revert c; decide

/-- Two codes that name a slot name the same one only if they are equal. -/
theorem slotOf?_injective {a b : BitVec 2} {i : SlotId} (ha : slotOf? a = some i) (hb : slotOf? b = some i) : a = b := by
  have h : ∀ a b : BitVec 2, slotOf? a = slotOf? b → (slotOf? a).isSome → a = b := by decide
  exact h a b (by rw [ha, hb]) (by simp [ha])

theorem letterOf?_of_letter {c : Byte} {x : Sym26} (h : c.toNat = 0x41 + x.val ∨ c.toNat = 0x61 + x.val) :
    letterOf? c = some x := by
  have hx := x.isLt
  unfold letterOf?
  rcases h with h | h
  · rw [dif_pos (by omega)]
    exact congrArg some (Fin.ext (show c.toNat - 0x41 = x.val by omega))
  · rw [dif_neg (by omega), dif_pos (by omega)]
    exact congrArg some (Fin.ext (show c.toNat - 0x61 = x.val by omega))

theorem letterOf?_eq_none {c : Byte} (h : c.toNat < 0x41 ∨ (0x5A < c.toNat ∧ c.toNat < 0x61) ∨ 0x7A < c.toNat) :
    letterOf? c = none := by
  unfold letterOf?
  rw [dif_neg (by omega), dif_neg (by omega)]

@[simp] theorem toNat_fieldOfSymbol (x : Sym26) : (fieldOfSymbol x).toNat = x.val := by
  revert x; decide +kernel

@[simp] theorem symbolOf?_fieldOfSymbol (x : Sym26) : symbolOf? (fieldOfSymbol x) = some x :=
  symbolOf?_eq_some.2 (toNat_fieldOfSymbol x)

end Sys2Proof.Machine
end

