-- ==== Sys2Proof/Laws/State.lean ====
section
/-! SUPPORT. One lemma per field per named update of State (Machine/Ops.lean), so that no later proof unfolds a record
update. -/

namespace Sys2Proof.Machine

variable (s : State)

@[simp] theorem State.withPhase_phase (p : Phase) : (s.withPhase p).phase = p := rfl
@[simp] theorem State.withPhase_left (p : Phase) : (s.withPhase p).left = s.left := rfl
@[simp] theorem State.withPhase_middle (p : Phase) : (s.withPhase p).middle = s.middle := rfl
@[simp] theorem State.withPhase_right (p : Phase) : (s.withPhase p).right = s.right := rfl
@[simp] theorem State.withPhase_plug (p : Phase) : (s.withPhase p).plug = s.plug := rfl
@[simp] theorem State.withPhase_refl (p : Phase) : (s.withPhase p).refl = s.refl := rfl
@[simp] theorem State.withPhase_rsp (p : Phase) : (s.withPhase p).rsp = s.rsp := rfl
@[simp] theorem State.withPhase_cfg (p : Phase) : (s.withPhase p).cfg = s.cfg := rfl
@[simp] theorem State.withPhase_pending (p : Phase) : (s.withPhase p).pending = s.pending := rfl
@[simp] theorem State.withPhase_observed (p : Phase) : (s.withPhase p).observed = s.observed := rfl

@[simp] theorem State.withRsp_phase (w : Word) : (s.withRsp w).phase = s.phase := rfl
@[simp] theorem State.withRsp_left (w : Word) : (s.withRsp w).left = s.left := rfl
@[simp] theorem State.withRsp_middle (w : Word) : (s.withRsp w).middle = s.middle := rfl
@[simp] theorem State.withRsp_right (w : Word) : (s.withRsp w).right = s.right := rfl
@[simp] theorem State.withRsp_plug (w : Word) : (s.withRsp w).plug = s.plug := rfl
@[simp] theorem State.withRsp_refl (w : Word) : (s.withRsp w).refl = s.refl := rfl
@[simp] theorem State.withRsp_rsp (w : Word) : (s.withRsp w).rsp = w := rfl
@[simp] theorem State.withRsp_cfg (w : Word) : (s.withRsp w).cfg = s.cfg := rfl
@[simp] theorem State.withRsp_pending (w : Word) : (s.withRsp w).pending = s.pending := rfl
@[simp] theorem State.withRsp_observed (w : Word) : (s.withRsp w).observed = s.observed := rfl

@[simp] theorem State.withPlug_phase (m : Vector Sym26 26) : (s.withPlug m).phase = s.phase := rfl
@[simp] theorem State.withPlug_left (m : Vector Sym26 26) : (s.withPlug m).left = s.left := rfl
@[simp] theorem State.withPlug_middle (m : Vector Sym26 26) : (s.withPlug m).middle = s.middle := rfl
@[simp] theorem State.withPlug_right (m : Vector Sym26 26) : (s.withPlug m).right = s.right := rfl
@[simp] theorem State.withPlug_plug (m : Vector Sym26 26) : (s.withPlug m).plug = m := rfl
@[simp] theorem State.withPlug_refl (m : Vector Sym26 26) : (s.withPlug m).refl = s.refl := rfl
@[simp] theorem State.withPlug_rsp (m : Vector Sym26 26) : (s.withPlug m).rsp = s.rsp := rfl
@[simp] theorem State.withPlug_cfg (m : Vector Sym26 26) : (s.withPlug m).cfg = s.cfg := rfl
@[simp] theorem State.withPlug_pending (m : Vector Sym26 26) : (s.withPlug m).pending = s.pending := rfl
@[simp] theorem State.withPlug_observed (m : Vector Sym26 26) : (s.withPlug m).observed = s.observed := rfl

@[simp] theorem State.withRefl_phase (r : Reflector) : (s.withRefl r).phase = s.phase := rfl
@[simp] theorem State.withRefl_left (r : Reflector) : (s.withRefl r).left = s.left := rfl
@[simp] theorem State.withRefl_middle (r : Reflector) : (s.withRefl r).middle = s.middle := rfl
@[simp] theorem State.withRefl_right (r : Reflector) : (s.withRefl r).right = s.right := rfl
@[simp] theorem State.withRefl_plug (r : Reflector) : (s.withRefl r).plug = s.plug := rfl
@[simp] theorem State.withRefl_refl (r : Reflector) : (s.withRefl r).refl = r := rfl
@[simp] theorem State.withRefl_rsp (r : Reflector) : (s.withRefl r).rsp = s.rsp := rfl
@[simp] theorem State.withRefl_cfg (r : Reflector) : (s.withRefl r).cfg = s.cfg := rfl
@[simp] theorem State.withRefl_pending (r : Reflector) : (s.withRefl r).pending = s.pending := rfl
@[simp] theorem State.withRefl_observed (r : Reflector) : (s.withRefl r).observed = s.observed := rfl

@[simp] theorem State.observe_phase (o : Observation) : (s.observe o).phase = s.phase := rfl
@[simp] theorem State.observe_left (o : Observation) : (s.observe o).left = s.left := rfl
@[simp] theorem State.observe_middle (o : Observation) : (s.observe o).middle = s.middle := rfl
@[simp] theorem State.observe_right (o : Observation) : (s.observe o).right = s.right := rfl
@[simp] theorem State.observe_plug (o : Observation) : (s.observe o).plug = s.plug := rfl
@[simp] theorem State.observe_refl (o : Observation) : (s.observe o).refl = s.refl := rfl
@[simp] theorem State.observe_rsp (o : Observation) : (s.observe o).rsp = s.rsp := rfl
@[simp] theorem State.observe_cfg (o : Observation) : (s.observe o).cfg = s.cfg := rfl
@[simp] theorem State.observe_pending (o : Observation) : (s.observe o).pending = s.pending := rfl
@[simp] theorem State.observe_observed (o : Observation) : (s.observe o).observed = o :: s.observed := rfl

@[simp] theorem State.withSlot_left_phase (v : Slot) : (s.withSlot .left v).phase = s.phase := rfl
@[simp] theorem State.withSlot_left_left (v : Slot) : (s.withSlot .left v).left = v := rfl
@[simp] theorem State.withSlot_left_middle (v : Slot) : (s.withSlot .left v).middle = s.middle := rfl
@[simp] theorem State.withSlot_left_right (v : Slot) : (s.withSlot .left v).right = s.right := rfl
@[simp] theorem State.withSlot_left_plug (v : Slot) : (s.withSlot .left v).plug = s.plug := rfl
@[simp] theorem State.withSlot_left_refl (v : Slot) : (s.withSlot .left v).refl = s.refl := rfl
@[simp] theorem State.withSlot_left_rsp (v : Slot) : (s.withSlot .left v).rsp = s.rsp := rfl
@[simp] theorem State.withSlot_left_cfg (v : Slot) : (s.withSlot .left v).cfg = s.cfg := rfl
@[simp] theorem State.withSlot_left_pending (v : Slot) : (s.withSlot .left v).pending = s.pending := rfl
@[simp] theorem State.withSlot_left_observed (v : Slot) : (s.withSlot .left v).observed = s.observed := rfl

@[simp] theorem State.withSlot_middle_phase (v : Slot) : (s.withSlot .middle v).phase = s.phase := rfl
@[simp] theorem State.withSlot_middle_left (v : Slot) : (s.withSlot .middle v).left = s.left := rfl
@[simp] theorem State.withSlot_middle_middle (v : Slot) : (s.withSlot .middle v).middle = v := rfl
@[simp] theorem State.withSlot_middle_right (v : Slot) : (s.withSlot .middle v).right = s.right := rfl
@[simp] theorem State.withSlot_middle_plug (v : Slot) : (s.withSlot .middle v).plug = s.plug := rfl
@[simp] theorem State.withSlot_middle_refl (v : Slot) : (s.withSlot .middle v).refl = s.refl := rfl
@[simp] theorem State.withSlot_middle_rsp (v : Slot) : (s.withSlot .middle v).rsp = s.rsp := rfl
@[simp] theorem State.withSlot_middle_cfg (v : Slot) : (s.withSlot .middle v).cfg = s.cfg := rfl
@[simp] theorem State.withSlot_middle_pending (v : Slot) : (s.withSlot .middle v).pending = s.pending := rfl
@[simp] theorem State.withSlot_middle_observed (v : Slot) : (s.withSlot .middle v).observed = s.observed := rfl

@[simp] theorem State.withSlot_right_phase (v : Slot) : (s.withSlot .right v).phase = s.phase := rfl
@[simp] theorem State.withSlot_right_left (v : Slot) : (s.withSlot .right v).left = s.left := rfl
@[simp] theorem State.withSlot_right_middle (v : Slot) : (s.withSlot .right v).middle = s.middle := rfl
@[simp] theorem State.withSlot_right_right (v : Slot) : (s.withSlot .right v).right = v := rfl
@[simp] theorem State.withSlot_right_plug (v : Slot) : (s.withSlot .right v).plug = s.plug := rfl
@[simp] theorem State.withSlot_right_refl (v : Slot) : (s.withSlot .right v).refl = s.refl := rfl
@[simp] theorem State.withSlot_right_rsp (v : Slot) : (s.withSlot .right v).rsp = s.rsp := rfl
@[simp] theorem State.withSlot_right_cfg (v : Slot) : (s.withSlot .right v).cfg = s.cfg := rfl
@[simp] theorem State.withSlot_right_pending (v : Slot) : (s.withSlot .right v).pending = s.pending := rfl
@[simp] theorem State.withSlot_right_observed (v : Slot) : (s.withSlot .right v).observed = s.observed := rfl

@[simp] theorem State.withPos_left_phase (p : Sym26) : (s.withPos .left p).phase = s.phase := rfl
@[simp] theorem State.withPos_left_left (p : Sym26) : (s.withPos .left p).left = { s.left with pos := p } := rfl
@[simp] theorem State.withPos_left_middle (p : Sym26) : (s.withPos .left p).middle = s.middle := rfl
@[simp] theorem State.withPos_left_right (p : Sym26) : (s.withPos .left p).right = s.right := rfl
@[simp] theorem State.withPos_left_plug (p : Sym26) : (s.withPos .left p).plug = s.plug := rfl
@[simp] theorem State.withPos_left_refl (p : Sym26) : (s.withPos .left p).refl = s.refl := rfl
@[simp] theorem State.withPos_left_rsp (p : Sym26) : (s.withPos .left p).rsp = s.rsp := rfl
@[simp] theorem State.withPos_left_cfg (p : Sym26) : (s.withPos .left p).cfg = s.cfg := rfl
@[simp] theorem State.withPos_left_pending (p : Sym26) : (s.withPos .left p).pending = s.pending := rfl
@[simp] theorem State.withPos_left_observed (p : Sym26) : (s.withPos .left p).observed = s.observed := rfl

@[simp] theorem State.withPos_middle_phase (p : Sym26) : (s.withPos .middle p).phase = s.phase := rfl
@[simp] theorem State.withPos_middle_left (p : Sym26) : (s.withPos .middle p).left = s.left := rfl
@[simp] theorem State.withPos_middle_middle (p : Sym26) : (s.withPos .middle p).middle = { s.middle with pos := p } := rfl
@[simp] theorem State.withPos_middle_right (p : Sym26) : (s.withPos .middle p).right = s.right := rfl
@[simp] theorem State.withPos_middle_plug (p : Sym26) : (s.withPos .middle p).plug = s.plug := rfl
@[simp] theorem State.withPos_middle_refl (p : Sym26) : (s.withPos .middle p).refl = s.refl := rfl
@[simp] theorem State.withPos_middle_rsp (p : Sym26) : (s.withPos .middle p).rsp = s.rsp := rfl
@[simp] theorem State.withPos_middle_cfg (p : Sym26) : (s.withPos .middle p).cfg = s.cfg := rfl
@[simp] theorem State.withPos_middle_pending (p : Sym26) : (s.withPos .middle p).pending = s.pending := rfl
@[simp] theorem State.withPos_middle_observed (p : Sym26) : (s.withPos .middle p).observed = s.observed := rfl

@[simp] theorem State.withPos_right_phase (p : Sym26) : (s.withPos .right p).phase = s.phase := rfl
@[simp] theorem State.withPos_right_left (p : Sym26) : (s.withPos .right p).left = s.left := rfl
@[simp] theorem State.withPos_right_middle (p : Sym26) : (s.withPos .right p).middle = s.middle := rfl
@[simp] theorem State.withPos_right_right (p : Sym26) : (s.withPos .right p).right = { s.right with pos := p } := rfl
@[simp] theorem State.withPos_right_plug (p : Sym26) : (s.withPos .right p).plug = s.plug := rfl
@[simp] theorem State.withPos_right_refl (p : Sym26) : (s.withPos .right p).refl = s.refl := rfl
@[simp] theorem State.withPos_right_rsp (p : Sym26) : (s.withPos .right p).rsp = s.rsp := rfl
@[simp] theorem State.withPos_right_cfg (p : Sym26) : (s.withPos .right p).cfg = s.cfg := rfl
@[simp] theorem State.withPos_right_pending (p : Sym26) : (s.withPos .right p).pending = s.pending := rfl
@[simp] theorem State.withPos_right_observed (p : Sym26) : (s.withPos .right p).observed = s.observed := rfl

@[simp] theorem State.slot_left : s.slot .left = s.left := rfl
@[simp] theorem State.slot_middle : s.slot .middle = s.middle := rfl
@[simp] theorem State.slot_right : s.slot .right = s.right := rfl

@[simp] theorem resetCore_phase : (resetCore s).phase = .config := rfl
@[simp] theorem resetCore_left : (resetCore s).left = Slot.reset := rfl
@[simp] theorem resetCore_middle : (resetCore s).middle = Slot.reset := rfl
@[simp] theorem resetCore_right : (resetCore s).right = Slot.reset := rfl
@[simp] theorem resetCore_plug : (resetCore s).plug = identityPlug := rfl
@[simp] theorem resetCore_refl : (resetCore s).refl = Reflector.reset := rfl
@[simp] theorem resetCore_rsp : (resetCore s).rsp = 0x00000000#32 := rfl
@[simp] theorem resetCore_cfg : (resetCore s).cfg = s.cfg := rfl
@[simp] theorem resetCore_pending : (resetCore s).pending = s.pending := rfl
@[simp] theorem resetCore_observed : (resetCore s).observed = s.observed := rfl

/-- Reading a slot just written. -/
@[simp] theorem State.slot_withSlot_same (i : SlotId) (v : Slot) : (s.withSlot i v).slot i = v := by cases i <;> rfl

/-- Writing a slot leaves the others. -/
theorem State.slot_withSlot_ne (i j : SlotId) (v : Slot) (h : i ≠ j) : (s.withSlot i v).slot j = s.slot j := by
  cases i <;> cases j <;> first | rfl | exact absurd rfl h

/-- A state is its fields: an update of RSP after an update of RSP is the last one. -/
@[simp] theorem State.withRsp_withRsp (v w : Word) : (s.withRsp v).withRsp w = s.withRsp w := rfl

end Sys2Proof.Machine
end

