-- ==== Sys2Proof/Laws/Ops.lean ====
section
/-! SUPPORT. One lemma per shared operation of Machine/Ops.lean, saying all it can do: arithmetic mod 26, the rotor unit in
terms of it, the step controller's closed form, raising an error, the preludes, the plugboard file. -/

namespace Sys2Proof.Machine

/-! ### Arithmetic -/

@[simp] theorem mod26_val (v : Int) : ((mod26 v : Sym26) : Int) = v % 26 := by
  show (((v % 26).toNat : Nat) : Int) = v % 26
  omega

@[simp] theorem mod26_add (x y : Sym26) : mod26 ((x : Int) + (y : Int)) = x + y := by
  apply Fin.ext
  have h := mod26_val ((x : Int) + (y : Int))
  rw [Fin.val_add]
  omega

@[simp] theorem mod26_sub (x y : Sym26) : mod26 ((x : Int) - (y : Int)) = x - y := by
  apply Fin.ext
  have h := mod26_val ((x : Int) - (y : Int))
  have hx := x.isLt
  have hy := y.isLt
  rw [Fin.val_sub]
  omega

@[simp] theorem mod26_succ (x : Sym26) : mod26 ((x : Int) + 1) = x + 1 := mod26_add x 1

@[simp] theorem coreOffset_eq (g p : Sym26) : coreOffset g p = p - g := mod26_sub p g

@[simp] theorem rotorStep_eq (p : Sym26) : rotorStep p = p + 1 := mod26_succ p

/-! ### Rotor unit -/

theorem rotorFwd_eq (c : Config) (t : RotorType) (g p x : Sym26) :
    rotorFwd c t g p x = romW c t (x + (p - g)) - (p - g) := by
  simp [rotorFwd]

theorem rotorBwd_eq (c : Config) (t : RotorType) (g p x : Sym26) :
    rotorBwd c t g p x = romWI c t (x + (p - g)) - (p - g) := by
  simp [rotorBwd]

theorem romW_injective (c : Config) (t : RotorType) : Function.Injective (romW c t) :=
  fun a b h => (c.rotors[t]).wiringLaw a b h

@[simp] theorem romWI_romW (c : Config) (t : RotorType) (k : Sym26) : romWI c t (romW c t k) = k := by
  have h : ((List.finRange 26).find? fun j => romW c t j == romW c t k) = some k := by
    rcases hf : (List.finRange 26).find? (fun j => romW c t j == romW c t k) with _ | j
    · have := List.find?_eq_none.1 hf k (List.mem_finRange k)
      simp at this
    · have hj := List.find?_some hf
      exact congrArg some (romW_injective c t (by simpa using hj))
  simp [romWI, h]

@[simp] theorem romW_romWI (c : Config) (t : RotorType) (k : Sym26) : romW c t (romWI c t k) = k := by
  obtain ⟨j, rfl⟩ := (Finite.injective_iff_surjective.1 (romW_injective c t)) k
  simp

@[simp] theorem romU_romU (c : Config) (u : ReflCode) (k : Sym26) : romU c u (romU c u k) = k :=
  (c.reflectors[u].law k).1

theorem romU_ne (c : Config) (u : ReflCode) (k : Sym26) : romU c u k ≠ k := (c.reflectors[u].law k).2

/-! ### Plugboard file -/

@[simp] theorem swap_identityPlug (x : Sym26) : swap identityPlug x = x := by
  simp [swap, identityPlug]

/-- What a pair entered in both directions makes of every symbol. -/
theorem swap_addPair (plug : Vector Sym26 26) (a b x : Sym26) :
    swap (addPair plug a b) x = if x = b then a else if x = a then b else swap plug x := by
  simp only [swap, addPair, Fin.getElem_fin, Vector.getElem_set, Fin.val_inj]
  simp only [eq_comm]

/-! ### Step controller (42_step_controller.md R151: the closed form, proved from R140) -/

theorem stepController_eq (s : State) :
    stepController s =
      { s with
        left := { s.left with pos := if notchSignal s.cfg s.middle then s.left.pos + 1 else s.left.pos },
        middle := { s.middle with
          pos := if notchSignal s.cfg s.middle ∨ notchSignal s.cfg s.right then s.middle.pos + 1 else s.middle.pos },
        right := { s.right with pos := s.right.pos + 1 } } := by
  unfold stepController
  cases notchSignal s.cfg s.middle <;> cases notchSignal s.cfg s.right <;>
    simp [State.stepSlot, State.withPos, State.withSlot, State.slot]

/-! ### Errors and preludes -/

/-- Every error but E_MISUSE writes RSP only (R245). -/
theorem raiseErr_of_ne (e : ErrCode) (s : State) (h : e ≠ .misuse) : raiseErr e s = s.withRsp (errorWord e s.phase) := by
  simp [raiseErr, h]

/-- E_MISUSE enters FAULT and writes RSP (R243). -/
theorem raiseErr_misuse (s : State) : raiseErr .misuse s = (s.withPhase .fault).withRsp 0x88000000#32 := by
  have h : errorWord .misuse .fault = 0x88000000#32 := by decide
  simp [raiseErr, h]

/-- All that the common prelude can do. -/
theorem afterPrelude_cases (s t : State) (body : State → State) (h : afterPrelude s body = .next t) :
    (s.phase = .fault ∧ t = raiseErr .fault s) ∨ (s.phase ≠ .fault ∧ t = body s) := by
  unfold afterPrelude at h
  by_cases hp : s.phase = .fault
  · left; simpa [hp, eq_comm] using h
  · right; simpa [hp, eq_comm] using h

/-- All that a configuration command can do. -/
theorem configCommand_cases (s t : State) (body : State → State) (h : configCommand s body = .next t) :
    (s.phase = .fault ∧ t = raiseErr .fault s) ∨ (s.phase = .ready ∧ t = raiseErr .locked s)
      ∨ (s.phase = .config ∧ t = body s) := by
  rcases afterPrelude_cases s t _ h with ⟨hp, ht⟩ | ⟨hp, ht⟩
  · exact .inl ⟨hp, ht⟩
  · cases hs : s.phase with
    | config => exact .inr (.inr ⟨rfl, by simpa [hs] using ht⟩)
    | ready => exact .inr (.inl ⟨rfl, by simpa [hs] using ht⟩)
    | fault => exact absurd hs hp

/-- All that a command that needs positions can do. -/
theorem readyCommand_cases (s t : State) (body : State → State) (h : readyCommand s body = .next t) :
    (s.phase = .fault ∧ t = raiseErr .fault s) ∨ (s.phase = .config ∧ t = raiseErr .notReady s)
      ∨ (s.phase = .ready ∧ t = body s) := by
  rcases afterPrelude_cases s t _ h with ⟨hp, ht⟩ | ⟨hp, ht⟩
  · exact .inl ⟨hp, ht⟩
  · cases hs : s.phase with
    | config => exact .inr (.inl ⟨rfl, by simpa [hs] using ht⟩)
    | ready => exact .inr (.inr ⟨rfl, by simpa [hs] using ht⟩)
    | fault => exact absurd hs hp

/-- All that a key press changes: the three positions and RSP. -/
theorem keyPress_eq (x : Sym26) (s : State) :
    keyPress x s =
      (stepController s).withRsp
        (responseWord okCode s.phase true (capitalOf (pipeline (stepController s) x)) 0#5 0#5
          (fieldOfSymbol (pipeline (stepController s) x))) := by
  have h : (stepController s).phase = s.phase := by simp [stepController_eq]
  simp [keyPress, respondWith, h]

/-- All that running a command word can do to the host's record: one pair more. -/
theorem runCommand_cases (cw : Word) (s t : State) (h : runCommand cw s = .next t) :
    ∃ u, execute cw s = .next u ∧ t = u.observe (.response cw u.rsp) := by
  unfold runCommand at h
  cases hu : execute cw s with
  | next u => exact ⟨u, rfl, by simpa [hu, eq_comm] using h⟩
  | fault r => simp [hu] at h
  | refused r => simp [hu] at h

end Sys2Proof.Machine
end

