-- ==== Sys2Proof/Laws/Decode.lean ====
section
/-! SUPPORT. Lemmas about fields of a word, one per operation of Decode.lean. -/

namespace Sys2Proof

/-- A bit of a field is a bit of the word. -/
theorem getLsbD_field (lsb n : Nat) (w : Word) (i : Nat) :
    (field lsb n w).getLsbD i = (decide (i < n) && w.getLsbD (lsb + i)) := by
  simp [field]

/-- A bit of a placed field. -/
theorem getLsbD_place {n : Nat} (lsb : Nat) (v : BitVec n) (i : Nat) :
    (place lsb v).getLsbD i = (decide (i < 32) && (!decide (i < lsb) && v.getLsbD (i - lsb))) := by
  by_cases h1 : i < 32 <;> by_cases h2 : i < lsb <;> simp [place, h1, h2]

/-- A field of a word built of two parts. -/
theorem field_or (lsb n : Nat) (v w : Word) : field lsb n (v ||| w) = field lsb n v ||| field lsb n w := by
  ext i hi
  simp [field]

/-- A placed field read back at its place. -/
theorem field_place_same {n : Nat} (lsb : Nat) (v : BitVec n) (h : lsb + n ≤ 32) : field lsb n (place lsb v) = v := by
  apply BitVec.eq_of_getLsbD_eq
  intro i hi
  rw [getLsbD_field, getLsbD_place]
  simp [hi]
  omega

/-- A field below a placed one reads 0. -/
theorem field_place_below {m : Nat} (lsb lsb' n : Nat) (v : BitVec m) (h : lsb + n ≤ lsb') :
    field lsb n (place lsb' v) = 0#n := by
  apply BitVec.eq_of_getLsbD_eq
  intro i hi
  rw [getLsbD_field, getLsbD_place]
  simp
  omega

/-- A field above a placed one reads 0. -/
theorem field_place_above {m : Nat} (lsb lsb' n : Nat) (v : BitVec m) (h : lsb' + m ≤ lsb) :
    field lsb n (place lsb' v) = 0#n := by
  apply BitVec.eq_of_getLsbD_eq
  intro i hi
  rw [getLsbD_field, getLsbD_place]
  have hv : v.getLsbD (lsb + i - lsb') = false := BitVec.getLsbD_of_ge _ _ (by omega)
  simp [hv]

/-- A mask of a word built of two parts. -/
theorem or_and_mask (v w mask : Word) : (v ||| w) &&& mask = (v &&& mask) ||| (w &&& mask) := by
  ext i hi
  simp [Bool.and_or_distrib_right]

/-- A mask that is clear under a placed field drops it. -/
theorem place_and_mask {n : Nat} (lsb : Nat) (v : BitVec n) (mask : Word)
    (h : ∀ i < n, mask.getLsbD (lsb + i) = false) : place lsb v &&& mask = 0#32 := by
  apply BitVec.eq_of_getLsbD_eq
  intro i hi
  rw [BitVec.getLsbD_and, getLsbD_place]
  by_cases below : i < lsb
  · simp [below]
  · by_cases inside : i - lsb < n
    · have hm := h _ inside
      rw [show lsb + (i - lsb) = i by omega] at hm
      simp [hm]
    · have hv : v.getLsbD (i - lsb) = false := BitVec.getLsbD_of_ge _ _ (by omega)
      simp [hv]

/-- The four bytes of a word put together again are the word. -/
@[simp] theorem wordOfBytes_fields (w : Word) : wordOfBytes (field 0 8 w) (field 8 8 w) (field 16 8 w) (field 24 8 w) = w := by
  apply BitVec.eq_of_getLsbD_eq
  intro i hi
  simp only [wordOfBytes, BitVec.getLsbD_or, getLsbD_place, getLsbD_field]
  interval_cases i <;> simp

end Sys2Proof
end

