-- ==== Sys2Proof/Laws/Responses.lean ====
section
/-! SUPPORT. The response words of Machine/Flags.lean: their values and the fields they read back, and the responses and
errors of Machine/Ops.lean in terms of them. -/

namespace Sys2Proof.Machine

theorem errorWord_eq (e : ErrCode) (p : Phase) :
    errorWord e p = BitVec.ofNat 32 (e.code.toNat * 2 ^ 28 + p.code.toNat * 2 ^ 26) := by
  cases e <;> cases p <;> decide

theorem plainResponse_eq (p : Phase) :
    responseWord okCode p false 0#8 0#5 0#5 0#5 = BitVec.ofNat 32 (p.code.toNat * 2 ^ 26) := by
  cases p <;> decide

theorem keyResponse_eq (y : Sym26) :
    responseWord okCode .ready true (capitalOf y) 0#5 0#5 (fieldOfSymbol y)
      = 0x06000000#32 ||| BitVec.ofNat 32 (0x41 + y.val) <<< 16 ||| BitVec.ofNat 32 y.val := by
  revert y; decide +kernel

@[simp] theorem rspERR_errorWord (e : ErrCode) (p : Phase) : rspERR (errorWord e p) = e.code := by
  cases e <;> cases p <;> decide

theorem errCode_ne_ok (e : ErrCode) : e.code ≠ 0#4 := by cases e <;> decide

@[simp] theorem rspERR_responseWord (p : Phase) (v : Bool) (o : Byte) (a b c : Field5) :
    rspERR (responseWord okCode p v o a b c) = 0#4 := by
  simp (disch := omega) only [rspERR, responseWord, field_or, field_place_above, field_place_same]; rfl

@[simp] theorem rspERR_respondWith (s : State) (v : Bool) (o : Byte) (a b c : Field5) :
    rspERR (respondWith s v o a b c).rsp = 0#4 := rspERR_responseWord _ _ _ _ _ _

@[simp] theorem rspERR_respond (s : State) : rspERR (respond s).rsp = 0#4 := rspERR_responseWord _ _ _ _ _ _

@[simp] theorem rspERR_raiseErr (e : ErrCode) (s : State) : rspERR (raiseErr e s).rsp = e.code := by
  simp [raiseErr]

@[simp] theorem rspD0_keyResponse (y : Sym26) :
    rspD0 (responseWord okCode .ready true (capitalOf y) 0#5 0#5 (fieldOfSymbol y)) = fieldOfSymbol y := by
  revert y; decide +kernel

@[simp] theorem rspVALID_keyResponse (y : Sym26) :
    rspVALID (responseWord okCode .ready true (capitalOf y) 0#5 0#5 (fieldOfSymbol y)) = 1#1 := by
  revert y; decide +kernel

/-- A response with no field listed, in CONFIG. -/
theorem respond_config {s : State} (h : s.phase = .config) : respond s = s.withRsp 0x00000000#32 := by
  simp [respond, respondWith, h, plainResponse_eq, Phase.code]

/-- A response with no field listed, in READY. -/
theorem respond_ready {s : State} (h : s.phase = .ready) : respond s = s.withRsp 0x04000000#32 := by
  simp [respond, respondWith, h, plainResponse_eq, Phase.code]

/-- RESET's response is the reset value of RSP. -/
@[simp] theorem respond_resetCore (s : State) : respond (resetCore s) = resetCore s := by
  rw [respond_config (resetCore_phase s)]; rfl

end Sys2Proof.Machine
end

