-- ==== Sys2Proof/Laws/Commands.lean ====
section
/-! SUPPORT. Once for all proofs: everything a command can do (Effect), what a command does where nothing is in its way,
everything execute and step can do, and that a command neither reads nor writes the host's fields. -/

namespace Sys2Proof.Machine

/-- All that a command can leave behind it: an error, or its own effect under the conditions it checks. -/
inductive Effect (s : State) : Instr → State → Prop where
  | error (i : Instr) (e : ErrCode) (h : e ≠ .misuse) : Effect s i (s.withRsp (errorWord e s.phase))
  | misuse (l m r : Field5) (hp : s.phase = .ready) :
      Effect s (.setPos l m r) ((s.withPhase .fault).withRsp 0x88000000#32)
  | status : Effect s .status (respondWith s false 0#8 0#5 (BitVec.ofNat 5 (pairCount s.plug)) (configMask s))
  | cfgRotor (c : BitVec 2) (t : BitVec 3) (f : Field5) (i : SlotId) (g : Sym26) (hp : s.phase = .config)
      (hi : slotOf? c = some i) (hg : symbolOf? f = some g) :
      Effect s (.cfgRotor c t f)
        (respond (s.withSlot i { s.slot i with type := rotorTypeOf t, ring := g, valid := true }))
  | cfgRefl (f : Field5) (u : ReflCode) (hp : s.phase = .config) (hu : reflectorOf? f = some u) :
      Effect s (.cfgRefl f) (respond (s.withRefl { valid := true, id := u }))
  | plugClear (hp : s.phase = .config) : Effect s .plugClear (respond (s.withPlug identityPlug))
  | plugPair (f g : Field5) (a b : Sym26) (hp : s.phase = .config) (ha : symbolOf? f = some a)
      (hb : symbolOf? g = some b) (hab : a ≠ b) (h1 : swap s.plug a = a) (h2 : swap s.plug b = b) :
      Effect s (.plugPair f g) (respond (s.withPlug (addPair s.plug a b)))
  | setPos (fa fb fc : Field5) (l m r : Sym26) (hp : s.phase = .config) (hl : symbolOf? fa = some l)
      (hm : symbolOf? fb = some m) (hr : symbolOf? fc = some r) (hc : configured s = true) :
      Effect s (.setPos fa fb fc)
        (respond
          ((((s.withPos .left (initialPos s.cfg s.left.ring l)).withPos .middle
            (initialPos s.cfg s.middle.ring m)).withPos .right (initialPos s.cfg s.right.ring r)).withPhase .ready))
  | press (f : Field5) (x : Sym26) (hp : s.phase = .ready) (hx : symbolOf? f = some x) :
      Effect s (.press f) (keyPress x s)
  | pressChar (c : Byte) (x : Sym26) (hp : s.phase = .ready) (hx : letterOf? c = some x) :
      Effect s (.pressChar c) (keyPress x s)
  | skipChar (c : Byte) (hp : s.phase = .ready) (hx : letterOf? c = none) : Effect s (.pressChar c) (respond s)
  | getPos (hp : s.phase = .ready) :
      Effect s .getPos
        (respondWith s false 0#8 (fieldOfSymbol s.left.pos) (fieldOfSymbol s.middle.pos) (fieldOfSymbol s.right.pos))
  | reset : Effect s .reset (resetCore s)

theorem Effect.of_raiseErr (s : State) (i : Instr) (e : ErrCode) (he : e ≠ .misuse) : Effect s i (raiseErr e s) := by
  rw [raiseErr_of_ne _ _ he]; exact .error _ _ he

/-- Everything exec can do. -/
theorem exec_effect {i : Instr} {s t : State} (h : exec i s = .next t) : Effect s i t := by
  cases i with
  | status => injection h with h; subst h; exact .status
  | reset => injection h with h; subst h; rw [respond_resetCore]; exact .reset
  | cfgRotor c t f =>
    simp only [exec, execCfgRotor] at h
    rcases configCommand_cases _ _ _ h with ⟨hp, rfl⟩ | ⟨hp, rfl⟩ | ⟨hp, rfl⟩
    · exact .of_raiseErr _ _ _ (by decide)
    · exact .of_raiseErr _ _ _ (by decide)
    · split
      · exact .cfgRotor _ _ _ _ _ hp ‹_› ‹_›
      · exact .of_raiseErr _ _ _ (by decide)
  | cfgRefl f =>
    simp only [exec, execCfgRefl] at h
    rcases configCommand_cases _ _ _ h with ⟨hp, rfl⟩ | ⟨hp, rfl⟩ | ⟨hp, rfl⟩
    · exact .of_raiseErr _ _ _ (by decide)
    · exact .of_raiseErr _ _ _ (by decide)
    · split
      · exact .cfgRefl _ _ hp ‹_›
      · exact .of_raiseErr _ _ _ (by decide)
  | plugClear =>
    simp only [exec, execPlugClear] at h
    rcases configCommand_cases _ _ _ h with ⟨hp, rfl⟩ | ⟨hp, rfl⟩ | ⟨hp, rfl⟩
    · exact .of_raiseErr _ _ _ (by decide)
    · exact .of_raiseErr _ _ _ (by decide)
    · exact .plugClear hp
  | plugPair f g =>
    simp only [exec, execPlugPair] at h
    rcases configCommand_cases _ _ _ h with ⟨hp, rfl⟩ | ⟨hp, rfl⟩ | ⟨hp, rfl⟩
    · exact .of_raiseErr _ _ _ (by decide)
    · exact .of_raiseErr _ _ _ (by decide)
    · split
      · split
        · exact .of_raiseErr _ _ _ (by decide)
        · rename_i hab
          split
          · exact .of_raiseErr _ _ _ (by decide)
          · rename_i free
            push Not at free
            exact .plugPair _ _ _ _ hp ‹_› ‹_› hab free.1 free.2
      · exact .of_raiseErr _ _ _ (by decide)
  | setPos fa fb fc =>
    simp only [exec, execSetPos] at h
    rcases afterPrelude_cases _ _ _ h with ⟨hp, rfl⟩ | ⟨hp, rfl⟩
    · exact .of_raiseErr _ _ _ (by decide)
    · split
      · rw [raiseErr_misuse]; exact .misuse _ _ _ ‹_›
      · have hc : s.phase = .config := by cases hq : s.phase <;> simp_all
        split
        · split
          · exact .setPos _ _ _ _ _ _ hc ‹_› ‹_› ‹_› ‹_›
          · exact .of_raiseErr _ _ _ (by decide)
        · exact .of_raiseErr _ _ _ (by decide)
  | press f =>
    simp only [exec, execPress] at h
    rcases readyCommand_cases _ _ _ h with ⟨hp, rfl⟩ | ⟨hp, rfl⟩ | ⟨hp, rfl⟩
    · exact .of_raiseErr _ _ _ (by decide)
    · exact .of_raiseErr _ _ _ (by decide)
    · split
      · exact .press _ _ hp ‹_›
      · exact .of_raiseErr _ _ _ (by decide)
  | pressChar f =>
    simp only [exec, execPressChar] at h
    rcases readyCommand_cases _ _ _ h with ⟨hp, rfl⟩ | ⟨hp, rfl⟩ | ⟨hp, rfl⟩
    · exact .of_raiseErr _ _ _ (by decide)
    · exact .of_raiseErr _ _ _ (by decide)
    · split
      · exact .pressChar _ _ hp ‹_›
      · exact .skipChar _ hp ‹_›
  | getPos =>
    simp only [exec, execGetPos] at h
    rcases readyCommand_cases _ _ _ h with ⟨hp, rfl⟩ | ⟨hp, rfl⟩ | ⟨hp, rfl⟩
    · exact .of_raiseErr _ _ _ (by decide)
    · exact .of_raiseErr _ _ _ (by decide)
    · exact .getPos hp

/-- Every command completes with a next state. -/
theorem exec_next (i : Instr) (s : State) : ∃ t, exec i s = .next t := by
  cases i <;> exact ⟨_, rfl⟩

/-- Every command word completes with a next state. -/
theorem execute_next (w : Word) (s : State) : ∃ t, execute w s = .next t := by
  unfold execute
  split
  · exact ⟨_, rfl⟩
  · exact exec_next _ _

/-! ### A command with nothing in its way -/

theorem exec_cfgRotor {c : BitVec 2} {ty : BitVec 3} {f : Field5} {s : State} {i : SlotId} {g : Sym26}
    (hp : s.phase = .config) (hi : slotOf? c = some i) (hg : symbolOf? f = some g) :
    exec (.cfgRotor c ty f) s
      = .next (respond (s.withSlot i { s.slot i with type := rotorTypeOf ty, ring := g, valid := true })) := by
  simp [exec, execCfgRotor, configCommand, afterPrelude, hp, hi, hg]

theorem exec_cfgRefl {f : Field5} {s : State} {u : ReflCode} (hp : s.phase = .config) (hu : reflectorOf? f = some u) :
    exec (.cfgRefl f) s = .next (respond (s.withRefl { valid := true, id := u })) := by
  simp [exec, execCfgRefl, configCommand, afterPrelude, hp, hu]

theorem exec_plugClear {s : State} (hp : s.phase = .config) :
    exec .plugClear s = .next (respond (s.withPlug identityPlug)) := by
  simp [exec, execPlugClear, configCommand, afterPrelude, hp]

theorem exec_plugPair {f g : Field5} {s : State} {a b : Sym26} (hp : s.phase = .config) (ha : symbolOf? f = some a)
    (hb : symbolOf? g = some b) (hab : a ≠ b) (h1 : swap s.plug a = a) (h2 : swap s.plug b = b) :
    exec (.plugPair f g) s = .next (respond (s.withPlug (addPair s.plug a b))) := by
  simp [exec, execPlugPair, configCommand, afterPrelude, hp, ha, hb, hab, h1, h2]

theorem exec_press {f : Field5} {s : State} {x : Sym26} (hp : s.phase = .ready) (hx : symbolOf? f = some x) :
    exec (.press f) s = .next (keyPress x s) := by
  simp [exec, execPress, readyCommand, afterPrelude, hp, hx]

theorem exec_pressChar {c : Byte} {s : State} {x : Sym26} (hp : s.phase = .ready) (hx : letterOf? c = some x) :
    exec (.pressChar c) s = .next (keyPress x s) := by
  simp [exec, execPressChar, readyCommand, afterPrelude, hp, hx]

/-! ### The step controller and the pipeline beside the other fields -/

@[simp] theorem stepController_phase (s : State) : (stepController s).phase = s.phase := by simp [stepController_eq]
@[simp] theorem stepController_plug (s : State) : (stepController s).plug = s.plug := by simp [stepController_eq]
@[simp] theorem stepController_refl (s : State) : (stepController s).refl = s.refl := by simp [stepController_eq]
@[simp] theorem stepController_cfg (s : State) : (stepController s).cfg = s.cfg := by simp [stepController_eq]

@[simp] theorem stepController_withRsp (s : State) (w : Word) :
    stepController (s.withRsp w) = (stepController s).withRsp w := by
  simp only [stepController_eq]; rfl

@[simp] theorem pipeline_withRsp (s : State) (w : Word) : pipeline (s.withRsp w) = pipeline s := rfl

@[simp] theorem keyPress_phase (x : Sym26) (s : State) : (keyPress x s).phase = s.phase := by simp [keyPress_eq]

/-! ### Words, steps and runs -/

/-- Everything execute can do. -/
theorem execute_cases {w : Word} {s t : State} (h : execute w s = .next t) :
    ((∃ e, decode w = .illegal e) ∧ t = s.withRsp (errorWord .illegal s.phase))
      ∨ ∃ i, decode w = .command i ∧ exec i s = .next t := by
  unfold execute at h
  split at h
  · injection h with h
    subst h
    rw [raiseErr_of_ne _ _ (by decide)]
    exact .inl ⟨⟨_, ‹_›⟩, rfl⟩
  · exact .inr ⟨_, ‹_›, h⟩

/-- Everything a step can do: nothing, a command, a change of the host's fields alone, a reset. -/
theorem step_cases {s t : State} (h : step s = .next t) :
    t = s ∨ ∃ a rest, s.pending = a :: rest ∧
      ((∃ w, runCommand w { s with pending := rest } = .next t)
        ∨ (∃ o, t = { s with pending := rest, observed := o }) ∨ t = resetCore { s with pending := rest }) := by
  unfold step performNext at h
  split at h
  · injection h with h
    exact .inl h.symm
  · rename_i a rest hp
    refine .inr ⟨a, rest, hp, ?_⟩
    cases a with
    | command w => exact .inl ⟨w, h⟩
    | readRsp => injection h with h; exact .inr (.inl ⟨_, h.symm⟩)
    | resetInput => injection h with h; exact .inr (.inr h.symm)
    | busRead a n =>
      simp only [perform, busRead] at h
      split at h
      · cases h
      · split at h
        · injection h with h; exact .inr (.inl ⟨_, h.symm⟩)
        · cases h
    | busWrite a d =>
      simp only [perform, busWrite] at h
      split at h
      · cases h
      · split at h
        · split at h
          · exact .inl ⟨_, h⟩
          · injection h with h; exact .inr (.inl ⟨_, h.symm⟩)
        · cases h

/-- A step in front of a run. -/
theorem run_succ (k : Nat) (s t : State) (h : step s = .next t) :
    Host.Core.run Sys2Proof.core (k + 1) s = Host.Core.run Sys2Proof.core k t := by
  have hs : Sys2Proof.core.step s = .next t := h
  simp only [Host.Core.run]
  rw [hs]

/-- Two sequences of words one after the other. -/
theorem issueAll_append {a b : List Word} {s t u : State} {rs rs' : List Word} (ha : issueAll a s = some (rs, t))
    (hb : issueAll b t = some (rs', u)) : issueAll (a ++ b) s = some (rs ++ rs', u) := by
  induction a generalizing s rs with
  | nil =>
    injection ha with ha
    injection ha with h1 h2
    subst h1 h2
    simpa using hb
  | cons w ws ih =>
    obtain ⟨v, hv⟩ := execute_next w s
    simp only [issueAll, List.cons_append, hv] at ha ⊢
    cases hi : issueAll ws v with
    | none => simp [hi] at ha
    | some p =>
      obtain ⟨r, x⟩ := p
      simp only [hi] at ha
      injection ha with ha
      injection ha with h1 h2
      subst h1 h2
      rw [ih hi]
      rfl

/-! ### The host's fields -/

/-- A state with other waiting actions and another record. -/
def State.withHost (s : State) (p : List HostAction) (o : List Observation) : State :=
  { s with pending := p, observed := o }

/-- A command neither reads nor writes the host's fields. -/
theorem exec_withHost {i : Instr} {s t : State} (h : exec i s = .next t) (p : List HostAction) (o : List Observation) :
    exec i (s.withHost p o) = .next (t.withHost p o) := by
  have hs : (s.withHost p o).phase = s.phase := rfl
  cases i with
  | status => injection h with h; subst h; rfl
  | reset => injection h with h; subst h; rfl
  | cfgRotor a b c =>
    simp only [exec, execCfgRotor] at h ⊢
    rcases configCommand_cases _ _ _ h with ⟨hp, rfl⟩ | ⟨hp, rfl⟩ | ⟨hp, rfl⟩ <;>
      simp only [configCommand, afterPrelude, hs, hp, reduceCtorEq, if_false, if_true]
    · rfl
    · rfl
    · cases slotOf? a with
      | none => rfl
      | some i => cases symbolOf? c with
        | none => rfl
        | some g => cases i <;> rfl
  | cfgRefl a =>
    simp only [exec, execCfgRefl] at h ⊢
    rcases configCommand_cases _ _ _ h with ⟨hp, rfl⟩ | ⟨hp, rfl⟩ | ⟨hp, rfl⟩ <;>
      simp only [configCommand, afterPrelude, hs, hp, reduceCtorEq, if_false, if_true]
    · rfl
    · rfl
    · cases reflectorOf? a <;> rfl
  | plugClear =>
    simp only [exec, execPlugClear] at h ⊢
    rcases configCommand_cases _ _ _ h with ⟨hp, rfl⟩ | ⟨hp, rfl⟩ | ⟨hp, rfl⟩ <;>
      simp only [configCommand, afterPrelude, hs, hp, reduceCtorEq, if_false, if_true] <;> rfl
  | plugPair a b =>
    simp only [exec, execPlugPair] at h ⊢
    rcases configCommand_cases _ _ _ h with ⟨hp, rfl⟩ | ⟨hp, rfl⟩ | ⟨hp, rfl⟩ <;>
      simp only [configCommand, afterPrelude, hs, hp, reduceCtorEq, if_false, if_true]
    · rfl
    · rfl
    · have hplug : (s.withHost p o).plug = s.plug := rfl
      rw [hplug]
      split
      · split
        · rfl
        · split <;> rfl
      · rfl
  | setPos a b c =>
    simp only [exec, execSetPos] at h ⊢
    have hc : configured (s.withHost p o) = configured s := rfl
    rcases afterPrelude_cases _ _ _ h with ⟨hp, rfl⟩ | ⟨hp, rfl⟩
    · simp only [afterPrelude, hs, hp, if_true]; rfl
    · simp only [afterPrelude, hs, hp, if_false, hc]
      split
      · rfl
      · split
        · split <;> rfl
        · rfl
  | getPos =>
    simp only [exec, execGetPos] at h ⊢
    rcases readyCommand_cases _ _ _ h with ⟨hp, rfl⟩ | ⟨hp, rfl⟩ | ⟨hp, rfl⟩ <;>
      simp only [readyCommand, afterPrelude, hs, hp, reduceCtorEq, if_false, if_true] <;> rfl
  | press a =>
    simp only [exec, execPress] at h ⊢
    rcases readyCommand_cases _ _ _ h with ⟨hp, rfl⟩ | ⟨hp, rfl⟩ | ⟨hp, rfl⟩ <;>
      simp only [readyCommand, afterPrelude, hs, hp, reduceCtorEq, if_false, if_true]
    · rfl
    · rfl
    · cases symbolOf? a with
      | none => rfl
      | some x => simp only [keyPress_eq, stepController_eq]; rfl
  | pressChar a =>
    simp only [exec, execPressChar] at h ⊢
    rcases readyCommand_cases _ _ _ h with ⟨hp, rfl⟩ | ⟨hp, rfl⟩ | ⟨hp, rfl⟩ <;>
      simp only [readyCommand, afterPrelude, hs, hp, reduceCtorEq, if_false, if_true]
    · rfl
    · rfl
    · cases letterOf? a with
      | none => rfl
      | some x => simp only [keyPress_eq, stepController_eq]; rfl

/-- The same of a command word. -/
theorem execute_withHost {w : Word} {s t : State} (h : execute w s = .next t) (p : List HostAction)
    (o : List Observation) : execute w (s.withHost p o) = .next (t.withHost p o) := by
  unfold execute at *
  cases hd : decode w with
  | illegal e =>
    rw [hd] at h
    injection h with h
    subst h
    rfl
  | command i =>
    simp only [hd] at h
    exact exec_withHost h p o

end Sys2Proof.Machine
end

