-- ==== Sys2Proof/Laws/PerInstr.lean ====
section
/-! SUPPORT. One lemma per constructor of Instr for the statements named in LAWS.json. -/

namespace Sys2Proof.Laws

/-- R73: the word of a command, with its operands at any value, lies under a row of the opcode map. -/
def EncodesItsRow.Statement (i : Instr) : Prop :=
  ∃ row ∈ Machine.opcodeRows, encode i &&& row.2.2 = row.2.1

theorem EncodesItsRow.status : EncodesItsRow.Statement .status :=
  ⟨(0x0, 0x00000000#32, 0xFFFFFFFF#32), by simp [Machine.opcodeRows], by decide⟩

theorem EncodesItsRow.cfgRotor (slot : BitVec 2) (type : BitVec 3) (ring : Field5) :
    EncodesItsRow.Statement (.cfgRotor slot type ring) :=
  ⟨(0x1, 0x10000000#32, 0xFCF8FFE0#32), by simp [Machine.opcodeRows], by
    simp (disch := decide) only [encode, or_and_mask, place_and_mask]; decide⟩

theorem EncodesItsRow.cfgRefl (code : Field5) : EncodesItsRow.Statement (.cfgRefl code) :=
  ⟨(0x2, 0x20000000#32, 0xFFFFFFE0#32), by simp [Machine.opcodeRows], by
    simp (disch := decide) only [encode, or_and_mask, place_and_mask]; decide⟩

theorem EncodesItsRow.plugClear : EncodesItsRow.Statement .plugClear :=
  ⟨(0x3, 0x30000000#32, 0xFFFFFFFF#32), by simp [Machine.opcodeRows], by decide⟩

theorem EncodesItsRow.plugPair (a b : Field5) : EncodesItsRow.Statement (.plugPair a b) :=
  ⟨(0x4, 0x40000000#32, 0xFFFFFC00#32), by simp [Machine.opcodeRows], by
    simp (disch := decide) only [encode, or_and_mask, place_and_mask]; decide⟩

theorem EncodesItsRow.setPos (l m r : Field5) : EncodesItsRow.Statement (.setPos l m r) :=
  ⟨(0x5, 0x50000000#32, 0xFFFF8000#32), by simp [Machine.opcodeRows], by
    simp (disch := decide) only [encode, or_and_mask, place_and_mask]; decide⟩

theorem EncodesItsRow.press (key : Field5) : EncodesItsRow.Statement (.press key) :=
  ⟨(0x6, 0x60000000#32, 0xFFFFFFE0#32), by simp [Machine.opcodeRows], by
    simp (disch := decide) only [encode, or_and_mask, place_and_mask]; decide⟩

theorem EncodesItsRow.pressChar (char : Byte) : EncodesItsRow.Statement (.pressChar char) :=
  ⟨(0x7, 0x70000000#32, 0xFFFFFF00#32), by simp [Machine.opcodeRows], by
    simp (disch := decide) only [encode, or_and_mask, place_and_mask]; decide⟩

theorem EncodesItsRow.getPos : EncodesItsRow.Statement .getPos :=
  ⟨(0x8, 0x80000000#32, 0xFFFFFFFF#32), by simp [Machine.opcodeRows], by decide⟩

theorem EncodesItsRow.reset : EncodesItsRow.Statement .reset :=
  ⟨(0xF, 0xF0000000#32, 0xFFFFFFFF#32), by simp [Machine.opcodeRows], by decide⟩

end Sys2Proof.Laws
end

