-- ==== Sys2Proof/Tests/Slice0.lean ====
section
/-! SUPPORT. The model's own tests. Every expected result is a word, a letter or a position of the spec: the tables of
10_state.md R30 and R31, the examples of 30_encoding.md R89, and the vectors of 95_test_vectors.md, each named by its id. -/

namespace Sys2Proof.Machine.Tests

open Sys2Proof Sys2Proof.Machine

/-! ### Helpers -/

/-- A capital letter as a symbol. -/
def sym (c : Char) : Sym26 := (letterSymbol? c).getD 0

/-- A slot of this type and ring offset, configured, at this letter. -/
def slotAt (t : RotorType) (g : Sym26) (p : Char) : Slot := { valid := true, type := t, ring := g, pos := sym p }

/-- A READY machine: rotor types, one ring offset for all, reflector B, no pairs, at these letters. -/
def readyAt (t0 t1 t2 : RotorType) (g : Sym26) (l m r : Char) : State :=
  { State.reset with
    phase := .ready, left := slotAt t0 g l, middle := slotAt t1 g m, right := slotAt t2 g r,
    refl := { valid := true, id := 1 }, rsp := 0x04000000#32 }

/-- I-II-III / 1,1,1 / B / none, at CAT, in READY. -/
def atCAT : State := readyAt 0 1 2 0 'C' 'A' 'T'

/-- The same configuration, complete, still in CONFIG. -/
def configuredState : State := { atCAT with phase := .config, rsp := 0#32 }

/-- The same machine in FAULT. -/
def faultState : State := { atCAT with phase := .fault, rsp := 0x88000000#32 }

/-- RSP after an outcome. -/
def rspOf (o : Host.Outcome State Fault Refusal) : Option Word :=
  match o with
  | .next t => some t.rsp
  | _ => none

/-- The three positions after an outcome. -/
def posOf (o : Host.Outcome State Fault Refusal) : Option (Sym26 × Sym26 × Sym26) :=
  match o with
  | .next t => some (t.left.pos, t.middle.pos, t.right.pos)
  | _ => none

/-- A letter triple. -/
def triple (l m r : Char) : Option (Sym26 × Sym26 × Sym26) := some (sym l, sym m, sym r)

/-! ### Well-formedness: an ill-formed term for each check -/

theorem test_ill_formed_refused :
    (Instr.cfgRotor 3#2 0#3 0#5).wellFormed = false ∧ (Instr.cfgRotor 0#2 0#3 26#5).wellFormed = false
      ∧ (Instr.cfgRefl 3#5).wellFormed = false ∧ (Instr.plugPair 26#5 0#5).wellFormed = false
      ∧ (Instr.plugPair 0#5 31#5).wellFormed = false ∧ (Instr.setPos 26#5 0#5 0#5).wellFormed = false
      ∧ (Instr.setPos 0#5 26#5 0#5).wellFormed = false ∧ (Instr.setPos 0#5 0#5 26#5).wellFormed = false
      ∧ (Instr.press 26#5).wellFormed = false := by decide

theorem test_well_formed_accepted :
    (Instr.cfgRotor 2#2 7#3 25#5).wellFormed ∧ (Instr.cfgRefl 2#5).wellFormed ∧ (Instr.plugPair 25#5 0#5).wellFormed
      ∧ (Instr.setPos 25#5 25#5 25#5).wellFormed ∧ (Instr.press 25#5).wellFormed
      ∧ (Instr.pressChar 0xFF#8).wellFormed := by decide

/-! ### Decoding: words written out bit by bit from the patterns of R72 -/

theorem test_decode_status : decode 0b00000000000000000000000000000000#32 = .command .status := by decide
theorem test_decode_cfg_rotor : -- 000100 ss 00000 ttt 00000000000 ggggg, s = 2, t = 5, g = 19
    decode 0b00010010000001010000000000010011#32 = .command (.cfgRotor 2#2 5#3 19#5) := by decide
theorem test_decode_cfg_refl : decode 0b00100000000000000000000000000010#32 = .command (.cfgRefl 2#5) := by decide
theorem test_decode_plug_clear : decode 0b00110000000000000000000000000000#32 = .command .plugClear := by decide
theorem test_decode_plug_pair : -- aaaaa = 1, bbbbb = 2 (PLUG BC of R183)
    decode 0b01000000000000000000000000100010#32 = .command (.plugPair 1#5 2#5) := by decide
theorem test_decode_set_pos : -- lllll = 2, mmmmm = 0, rrrrr = 19 (SETPOS CAT of R89)
    decode 0b01010000000000000000100000010011#32 = .command (.setPos 2#5 0#5 19#5) := by decide
theorem test_decode_press : decode 0b01100000000000000000000000010110#32 = .command (.press 22#5) := by decide
theorem test_decode_press_char : decode 0b01110000000000000000000001110111#32 = .command (.pressChar 0x77#8) := by decide
theorem test_decode_get_pos : decode 0b10000000000000000000000000000000#32 = .command .getPos := by decide
theorem test_decode_reset : decode 0b11110000000000000000000000000000#32 = .command .reset := by decide

/-- R80, R81: reserved opcodes, and a reserved bit of every format. -/
theorem test_decode_illegal :
    decode 0x90000000#32 = .illegal (.reservedOpcode 9#4) ∧ decode 0xE0000000#32 = .illegal (.reservedOpcode 14#4)
      ∧ decode 0x00000001#32 = .illegal (.reservedBits 0#4) ∧ decode 0x10080000#32 = .illegal (.reservedBits 1#4)
      ∧ decode 0x20000020#32 = .illegal (.reservedBits 2#4) ∧ decode 0x38000000#32 = .illegal (.reservedBits 3#4)
      ∧ decode 0x40000400#32 = .illegal (.reservedBits 4#4) ∧ decode 0x50008000#32 = .illegal (.reservedBits 5#4)
      ∧ decode 0x60000020#32 = .illegal (.reservedBits 6#4) ∧ decode 0x70000100#32 = .illegal (.reservedBits 7#4)
      ∧ decode 0x80000001#32 = .illegal (.reservedBits 8#4) ∧ decode 0xF0000001#32 = .illegal (.reservedBits 15#4) := by
  decide

/-- R54: little-endian bytes of PRESS W = 0x60000016. -/
theorem test_decode_bytes :
    decodeBytes [0x16#8, 0x00#8, 0x00#8, 0x60#8, 0xAA#8] = (.command (.press 22#5), [0xAA#8])
      ∧ decodeBytes [0x16#8, 0x00#8] = (.illegal .truncated, [0x16#8, 0x00#8])
      ∧ encodeBytes (.press 22#5) = [0x16#8, 0x00#8, 0x00#8, 0x60#8] := by decide

theorem test_table_word :
    decodeTableWord 32 0x12020000 = some (.cfgRotor 2#2 2#3 0#5) ∧ decodeTableWord 32 0x90000000 = none
      ∧ decodeTableWord 8 0x60000016 = none ∧ decodeTableWord 0 0x60000016 = some .status := by decide

/-! ### Catalogs: the letter columns of R30 and R31 against the symbol columns the model holds -/

/-- The letters of a map on symbols, as character codes. -/
def lettersOf (f : Sym26 → Sym26) : List Nat := (List.finRange 26).map fun k => 0x41 + (f k).val

/-- The character codes of a word. -/
def codes (cs : List Char) : List Nat := cs.map Char.toNat

theorem test_rotor_letters :
    lettersOf (romW defaultConfig 0) = codes ['E','K','M','F','L','G','D','Q','V','Z','N','T','O','W','Y','H','X','U','S','P','A','I','B','R','C','J']
      ∧ lettersOf (romW defaultConfig 1) = codes ['A','J','D','K','S','I','R','U','X','B','L','H','W','T','M','C','Q','G','Z','N','P','Y','F','V','O','E']
      ∧ lettersOf (romW defaultConfig 2) = codes ['B','D','F','H','J','L','C','P','R','T','X','V','Z','N','Y','E','I','W','G','A','K','M','U','S','Q','O']
      ∧ lettersOf (romW defaultConfig 3) = codes ['E','S','O','V','P','Z','J','A','Y','Q','U','I','R','H','X','L','N','F','T','G','K','D','C','M','W','B']
      ∧ lettersOf (romW defaultConfig 4) = codes ['V','Z','B','R','G','I','T','Y','U','P','S','D','N','H','L','X','A','W','M','J','Q','O','F','E','C','K']
      ∧ lettersOf (romW defaultConfig 5) = codes ['J','P','G','V','O','U','M','F','Y','Q','B','E','N','H','Z','R','D','K','A','S','X','L','I','C','T','W']
      ∧ lettersOf (romW defaultConfig 6) = codes ['N','Z','J','H','G','R','C','X','M','Y','S','W','B','O','U','F','A','I','V','L','P','E','K','Q','D','T']
      ∧ lettersOf (romW defaultConfig 7) = codes ['F','K','Q','H','T','L','X','O','C','B','J','S','P','D','Z','R','A','M','E','W','N','I','U','Y','G','V'] := by
  decide +kernel

/-- The inverse table of R30. -/
theorem test_rotor_inverse_letters :
    lettersOf (romWI defaultConfig 0) = codes ['U','W','Y','G','A','D','F','P','V','Z','B','E','C','K','M','T','H','X','S','L','R','I','N','Q','O','J']
      ∧ lettersOf (romWI defaultConfig 1) = codes ['A','J','P','C','Z','W','R','L','F','B','D','K','O','T','Y','U','Q','G','E','N','H','X','M','I','V','S']
      ∧ lettersOf (romWI defaultConfig 2) = codes ['T','A','G','B','P','C','S','D','Q','E','U','F','V','N','Z','H','Y','I','X','J','W','L','R','K','O','M']
      ∧ lettersOf (romWI defaultConfig 3) = codes ['H','Z','W','V','A','R','T','N','L','G','U','P','X','Q','C','E','J','M','B','S','K','D','Y','O','I','F']
      ∧ lettersOf (romWI defaultConfig 4) = codes ['Q','C','Y','L','X','W','E','N','F','T','Z','O','S','M','V','J','U','D','K','G','I','A','R','P','H','B']
      ∧ lettersOf (romWI defaultConfig 5) = codes ['S','K','X','Q','L','H','C','N','W','A','R','V','G','M','E','B','J','P','T','Y','F','D','Z','U','I','O']
      ∧ lettersOf (romWI defaultConfig 6) = codes ['Q','M','G','Y','V','P','E','D','R','C','W','T','I','A','N','U','X','F','K','Z','O','S','L','H','J','B']
      ∧ lettersOf (romWI defaultConfig 7) = codes ['Q','J','I','N','S','A','Y','D','V','K','B','F','R','U','H','M','C','P','L','E','W','Z','T','G','X','O'] := by
  decide +kernel

/-- V-S2: the full reflector tables. -/
theorem test_reflector_letters :
    lettersOf (reflect defaultConfig 0) = codes ['E','J','M','Z','A','L','Y','X','V','B','W','F','C','R','Q','U','O','N','T','S','P','I','K','H','G','D']
      ∧ lettersOf (reflect defaultConfig 1) = codes ['Y','R','U','H','Q','S','L','D','P','X','N','G','O','K','M','I','E','B','F','Z','C','W','V','J','A','T']
      ∧ lettersOf (reflect defaultConfig 2) = codes ['F','V','P','J','I','A','O','Y','E','D','R','Z','X','W','G','C','T','K','U','Q','S','B','N','M','H','L'] := by
  decide +kernel

/-- R32: a repeated image, three notches, no notch, a short table, a number above 25 and a fixed point are refused. -/
theorem test_unlawful_catalogs_refused :
    (RotorEntry.check? (0 :: 0 :: (List.range 26).drop 2) [0]).isNone
      ∧ (RotorEntry.check? (List.range 26) [0, 1, 2]).isNone ∧ (RotorEntry.check? (List.range 26) []).isNone
      ∧ (RotorEntry.check? (List.range 25) [0]).isNone ∧ (RotorEntry.check? (26 :: (List.range 26).drop 1) [0]).isNone
      ∧ (ReflectorEntry.check? (List.range 26)).isNone ∧ (RotorEntry.check? (List.range 26) [0, 13]).isSome := by
  decide +kernel

/-! ### Units -/

/-- V-R1 to V-R12: type, ring offset, position, input, forward output, backward output. -/
theorem test_rotor_vectors :
    ([(0, 0, 0, 'A', 'E', 'U'), (0, 0, 1, 'A', 'J', 'V'), (0, 0, 25, 'A', 'K', 'K'), (0, 1, 0, 'A', 'K', 'K'),
      (0, 1, 1, 'A', 'E', 'U'), (2, 0, 0, 'A', 'B', 'T'), (2, 0, 25, 'Z', 'R', 'P'), (1, 5, 3, 'H', 'K', 'Y'),
      (7, 25, 0, 'Z', 'E', 'P'), (4, 0, 0, 'Q', 'A', 'U'), (0, 0, 0, 'Z', 'J', 'J'), (2, 3, 17, 'L', 'A', 'Y')]
      : List (RotorType × Sym26 × Sym26 × Char × Char × Char)).all (fun (t, g, p, x, f, b) =>
        rotorFwd defaultConfig t g p (sym x) == sym f && rotorBwd defaultConfig t g p (sym x) == sym b) = true := by
  decide +kernel

/-- V-N1 to V-N8. -/
theorem test_notch_vectors :
    ([(0, 'Q', true), (0, 'R', false), (2, 'V', true), (1, 'E', true), (5, 'M', true), (5, 'Z', true), (5, 'A', false)]
      : List (RotorType × Char × Bool)).all (fun (t, p, n) => atNotch defaultConfig t (sym p) == n) = true
      ∧ notchSignal defaultConfig { valid := true, type := 2, ring := 5, pos := sym 'V' } = true := by
  decide

/-- The positions after one run of the step controller. -/
def stepped (t0 t1 t2 : RotorType) (l m r : Char) : Option (Sym26 × Sym26 × Sym26) :=
  posOf (.next (stepController (readyAt t0 t1 t2 0 l m r)))

/-- V-T1 to V-T13 (each arrow one key press). -/
theorem test_step_vectors :
    ([(0, 1, 2, 'A', 'A', 'T', 'A', 'A', 'U'), (0, 1, 2, 'A', 'A', 'V', 'A', 'B', 'W'), (0, 1, 2, 'A', 'D', 'V', 'A', 'E', 'W'),
      (0, 1, 2, 'A', 'E', 'W', 'B', 'F', 'X'), (0, 1, 2, 'B', 'F', 'X', 'B', 'F', 'Y'), (0, 1, 2, 'A', 'E', 'V', 'B', 'F', 'W'),
      (0, 1, 2, 'Q', 'A', 'A', 'Q', 'A', 'B'), (0, 1, 2, 'Q', 'E', 'V', 'R', 'F', 'W'), (0, 1, 2, 'Z', 'E', 'V', 'A', 'F', 'W'),
      (0, 1, 2, 'A', 'E', 'A', 'B', 'F', 'B'), (0, 1, 2, 'A', 'Z', 'Z', 'A', 'Z', 'A'), (4, 4, 4, 'Z', 'Z', 'Z', 'A', 'A', 'A'),
      (2, 2, 2, 'V', 'V', 'V', 'W', 'W', 'W'), (0, 1, 5, 'A', 'A', 'M', 'A', 'B', 'N'), (0, 1, 5, 'A', 'A', 'Z', 'A', 'B', 'A'),
      (0, 5, 2, 'A', 'M', 'A', 'B', 'N', 'B')]
      : List (RotorType × RotorType × RotorType × Char × Char × Char × Char × Char × Char)).all
        (fun (t0, t1, t2, l, m, r, l', m', r') => stepped t0 t1 t2 l m r == triple l' m' r') = true := by
  decide +kernel

/-- V-P6: thirteen pairs. -/
def thirteenPairs : Vector Sym26 26 :=
  #v[1,0,3,2,5,4,7,6,9,8,11,10,13,12,15,14,17,16,19,18,21,20,23,22,25,24]

theorem test_plugboard :
    swap (addPair identityPlug 0 1) 0 = 1 ∧ swap (addPair identityPlug 0 1) 1 = 0 ∧ swap (addPair identityPlug 0 1) 2 = 2
      ∧ pairCount identityPlug = 0 ∧ pairCount (addPair identityPlug 0 1) = 1 ∧ pairCount thirteenPairs = 13 := by
  decide +kernel

/-- U3: with POS_FRAME_WINDOW false a SET_POS operand is the core offset (R33). -/
theorem test_core_offset_frame :
    initialPos { defaultConfig with posFrameWindow := false } 5 24 = 3 ∧ initialPos defaultConfig 5 24 = 24 := by
  decide +kernel

/-! ### Commands, one step each -/

/-- V-C22, V-C24. -/
theorem test_status :
    rspOf (execute 0x00000000#32 faultState) = some 0x0800000F#32
      ∧ rspOf (execute 0x00000000#32 { configuredState with plug := addPair identityPlug 0 1 }) = some 0x0000002F#32 := by
  decide +kernel

/-- V-C1: slot 2 becomes III with ring offset 0, valid, its position untouched. -/
theorem test_cfg_rotor :
    execute 0x12020000#32 State.reset
      = .next { State.reset with right := { valid := true, type := 2, ring := 0, pos := 0 }, rsp := 0x00000000#32 } := by
  rfl

/-- V-C2, V-C3, and the lock (R184). -/
theorem test_cfg_rotor_errors :
    rspOf (execute 0x13000000#32 State.reset) = some 0x20000000#32
      ∧ rspOf (execute 0x1000001A#32 State.reset) = some 0x20000000#32
      ∧ rspOf (execute 0x12020000#32 atCAT) = some 0x54000000#32 := by decide

/-- R181, V-C4, V-C5, V-C16. -/
theorem test_cfg_refl :
    execute 0x20000001#32 State.reset
        = .next { State.reset with refl := { valid := true, id := 1 }, rsp := 0x00000000#32 }
      ∧ rspOf (execute 0x20000003#32 State.reset) = some 0x30000000#32
      ∧ rspOf (execute 0x20000020#32 State.reset) = some 0x10000000#32
      ∧ rspOf (execute 0x20000000#32 atCAT) = some 0x54000000#32 := ⟨rfl, by decide, by decide, by decide⟩

/-- R182, V-C17. -/
theorem test_plug_clear :
    execute 0x30000000#32 { State.reset with plug := addPair identityPlug 0 1 } = .next State.reset
      ∧ rspOf (execute 0x30000000#32 atCAT) = some 0x54000000#32 := ⟨rfl, by decide⟩

/-- R183, V-P3, V-P4, V-P5, V-C13. -/
theorem test_plug_pair_errors :
    rspOf (execute 0x40000001#32 State.reset) = some 0x00000000#32
      ∧ rspOf (execute 0x40000022#32 { State.reset with plug := addPair identityPlug 0 1 }) = some 0x40000000#32
      ∧ rspOf (execute 0x40000020#32 { State.reset with plug := addPair identityPlug 0 1 }) = some 0x40000000#32
      ∧ rspOf (execute 0x40000000#32 State.reset) = some 0x40000000#32
      ∧ rspOf (execute 0x4000037B#32 State.reset) = some 0x20000000#32
      ∧ rspOf (execute 0x40000001#32 { State.reset with plug := thirteenPairs }) = some 0x40000000#32 := by
  decide +kernel

/-- V-C14. -/
theorem test_set_pos :
    rspOf (execute 0x50000813#32 configuredState) = some 0x04000000#32
      ∧ posOf (execute 0x50000813#32 configuredState) = triple 'C' 'A' 'T' := by decide

/-- V-C8, V-C11, V-C12, V-C19. -/
theorem test_set_pos_errors :
    rspOf (execute 0x50000000#32 State.reset) = some 0x60000000#32
      ∧ rspOf (execute 0x5000001A#32 configuredState) = some 0x20000000#32
      ∧ rspOf (execute 0x5000001A#32 State.reset) = some 0x20000000#32
      ∧ execute 0x5000001E#32 atCAT = .next { atCAT with phase := .fault, rsp := 0x88000000#32 } :=
  ⟨by decide, by decide, by decide, rfl⟩

/-- V-K1 to V-K5. -/
theorem test_press :
    rspOf (execute 0x60000000#32 (readyAt 0 1 2 0 'A' 'A' 'A')) = some 0x06420001#32
      ∧ rspOf (execute 0x60000000#32 (readyAt 0 1 2 1 'A' 'A' 'A')) = some 0x06450004#32
      ∧ rspOf (execute 0x60000000#32 { readyAt 0 1 2 0 'A' 'A' 'A' with plug := addPair identityPlug 0 1 })
          = some 0x06420001#32
      ∧ rspOf (execute 0x60000016#32 atCAT) = some 0x06440003#32 ∧ posOf (execute 0x60000016#32 atCAT) = triple 'C' 'A' 'U'
      ∧ rspOf (execute 0x60000003#32 atCAT) = some 0x06570016#32 := by
  decide +kernel

/-- V-C9, V-C18, V-C20. -/
theorem test_press_errors :
    rspOf (execute 0x60000000#32 State.reset) = some 0x70000000#32
      ∧ execute 0x6000001B#32 atCAT = .next { atCAT with rsp := 0x24000000#32 }
      ∧ rspOf (execute 0x60000000#32 faultState) = some 0x98000000#32 := ⟨by decide, rfl, by decide⟩

/-- V-K6, V-K7. -/
theorem test_press_char_letters :
    rspOf (execute 0x70000057#32 atCAT) = some 0x06440003#32 ∧ rspOf (execute 0x70000077#32 atCAT) = some 0x06440003#32
      ∧ posOf (execute 0x70000077#32 atCAT) = triple 'C' 'A' 'U' := by
  decide +kernel

/-- V-K8 to V-K14: skipped, no step. -/
theorem test_press_char_skips :
    [0x20#8, 0x40#8, 0x5B#8, 0x60#8, 0x7B#8, 0xC4#8, 0x31#8].all (fun c =>
      rspOf (exec (.pressChar c) atCAT) == some 0x04000000#32
        && posOf (exec (.pressChar c) atCAT) == triple 'C' 'A' 'T') = true := by
  decide +kernel

/-- V-C15, V-C10. -/
theorem test_get_pos :
    execute 0x80000000#32 atCAT = .next { atCAT with rsp := 0x04000813#32 }
      ∧ rspOf (execute 0x80000000#32 State.reset) = some 0x70000000#32 := ⟨rfl, by decide⟩

/-- V-C23, V-C7, V-C6, V-C21. -/
theorem test_reset :
    execute 0xF0000000#32 faultState = .next State.reset
      ∧ execute 0xF0000001#32 atCAT = .next { atCAT with rsp := 0x14000000#32 }
      ∧ rspOf (execute 0x90000000#32 State.reset) = some 0x10000000#32
      ∧ rspOf (execute 0x90000000#32 faultState) = some 0x18000000#32 := ⟨rfl, rfl, by decide, by decide⟩

/-! ### Steps, the binding, the assembler -/

/-- One step from reset with STATUS presented runs STATUS and logs the pair; with nothing presented it does nothing. -/
theorem test_step_from_reset :
    step (State.reset.withFetchWord 32 0x12020000)
        = .next { State.reset with right := { valid := true, type := 2, ring := 0, pos := 0 },
                                   observed := [.response 0x12020000#32 0x00000000#32] }
      ∧ step State.reset = .next State.reset := ⟨rfl, rfl⟩

/-- atCAT on a platform that maps the block at 0x40. -/
def mappedAtCAT : State := { atCAT with cfg := { defaultConfig with ecoreBlock := some 4 } }

/-- R52 to R55: PRESS W written to CMD; RSP read; CMD and a reserved offset read; a narrow, a misaligned and an outside
access. -/
theorem test_bus :
    rspOf (perform (.busWrite 0x40 [0x16#8, 0x00#8, 0x00#8, 0x60#8]) mappedAtCAT) = some 0x06440003#32
      ∧ perform (.busRead 0x44 4) mappedAtCAT
          = .next { mappedAtCAT with observed := [.busData 0x44 [0x00#8, 0x00#8, 0x00#8, 0x04#8]] }
      ∧ perform (.busRead 0x40 4) mappedAtCAT
          = .next { mappedAtCAT with observed := [.busData 0x40 [0x00#8, 0x00#8, 0x00#8, 0x00#8]] }
      ∧ perform (.busWrite 0x4C [0x16#8, 0x00#8, 0x00#8, 0x60#8]) mappedAtCAT = .next mappedAtCAT
      ∧ perform (.busRead 0x44 2) mappedAtCAT = .refused .busAccessNotDefined
      ∧ perform (.busWrite 0x42 [0x16#8, 0x00#8, 0x00#8, 0x60#8]) mappedAtCAT = .refused .busAccessNotDefined
      ∧ perform (.busRead 0x50 4) mappedAtCAT = .fault .noSuchAddress
      ∧ perform (.busRead 0x44 4) atCAT = .fault .noSuchAddress :=
  ⟨by decide +kernel, rfl, rfl, rfl, rfl, rfl, rfl, rfl⟩

/-- R89: the table's examples. -/
theorem test_assembler :
    assemble [['S','t','a','t','u','s',' ',';','x'], ['R','O','T','O','R',' ','R',',',' ','I','I','I',',',' ','1'],
        ['R','E','F','L',' ','B'], ['P','L','U','G','C','L','R'], ['P','L','U','G',' ','A','B'],
        ['S','E','T','P','O','S',' ','C','A','T'], ['P','R','E','S','S',' ','W'],
        ['P','R','E','S','S','C',' ','\'',' ','\''], ['G','E','T','P','O','S'], [], ['R','E','S','E','T']]
      = some [0x00000000#32, 0x12020000#32, 0x20000001#32, 0x30000000#32, 0x40000001#32, 0x50000813#32, 0x60000016#32,
          0x70000020#32, 0x80000000#32, 0xF0000000#32] := by
  decide +kernel

/-- R90: program P5's MACHINE line and a TEXT line; a ring setting of 27 and a reflector D are rejected (R89). -/
theorem test_assembler_pseudo :
    assemble [['M','A','C','H','I','N','E',' ','I','I',' ','I','V',' ','V','I','I','I',',',' ','2',' ','1','3',' ','2','6',',',
          ' ','C',',',' ','"','A','Z',' ','B','Y',' ','C','X','"',',',' ','Q','E','M'], ['T','E','X','T',' ','"','H','i',',',' ','"']]
      = some [0xF0000000#32, 0x10010001#32, 0x1103000C#32, 0x12070019#32, 0x20000002#32, 0x40000019#32, 0x40000038#32,
          0x40000057#32, 0x5000408C#32, 0x70000048#32, 0x70000069#32, 0x7000002C#32, 0x70000020#32]
      ∧ assemble [['R','O','T','O','R',' ','L',',','I',',','2','7']] = none ∧ assemble [['R','E','F','L',' ','D']] = none := by
  decide +kernel

/-! ### Witnesses: for each statement with hypotheses, a state and operands that meet them, at boundary values -/

/-- One action waiting in front of a state. -/
def waiting (a : HostAction) (s : State) : State := { s with pending := [a] }

theorem witness_EncodeInvertsDecode :
    decode 0x1207001F#32 = .command (.cfgRotor 2#2 7#3 31#5) ∧ decode 0xF0000000#32 = .command .reset := by decide

theorem witness_BytesAreLittleEndian : (0 : Nat) < 4 ∧ (3 : Nat) < 4 := by decide

theorem witness_StepRunsTheDecodedCommand :
    (waiting (.command 0x60000016#32) atCAT).pending = .command 0x60000016#32 :: []
      ∧ decode 0x60000016#32 = .command (.press 22#5) := by decide

theorem witness_FetchWordIsRunNext :
    decodeTableWord 32 0xF0000000 = some .reset ∧ decodeTableWord 0 0xF0000000 = some .status := by decide

/-- The first and the last reserved opcode, and a reserved bit under the first and the last defined opcode; each phase. -/
theorem witness_IllegalWordsAnswerIllegal :
    (9 ≤ (0x90000000#32).toNat / 2 ^ 28 ∧ (0xEFFFFFFF#32).toNat / 2 ^ 28 ≤ 14)
      ∧ (∃ row ∈ opcodeRows, (0x00000001#32).toNat / 2 ^ 28 = row.1 ∧ 0x00000001#32 &&& row.2.2 ≠ row.2.1)
      ∧ (∃ row ∈ opcodeRows, (0xF8000000#32).toNat / 2 ^ 28 = row.1 ∧ 0xF8000000#32 &&& row.2.2 ≠ row.2.1)
      ∧ State.reset.phase = .config ∧ atCAT.phase = .ready ∧ faultState.phase = .fault := by decide

theorem witness_NothingHappensWithoutAHostAction : atCAT.pending = [] := by decide
theorem witness_ReadingRspHasNoSideEffect : (waiting .readRsp atCAT).pending = .readRsp :: [] := by decide
theorem witness_ResetInputActsAsReset : (waiting .resetInput faultState).pending = .resetInput :: [] := by decide

theorem witness_OnlyBusAccessesCanStop :
    (∀ addr bytes rest, (waiting .readRsp atCAT).pending ≠ .busRead addr bytes :: rest)
      ∧ ∀ addr data rest, (waiting .readRsp atCAT).pending ≠ .busWrite addr data :: rest :=
  ⟨by simp [waiting], by simp [waiting]⟩

theorem witness_RunLogsResponsesInAcceptanceOrder :
    ({ atCAT with pending := [.command 0x60000016#32, .command 0x90000000#32] } : State).pending
      = [0x60000016#32, 0x90000000#32].map .command := by decide

/-- CONFIG with the three slots, the least and the greatest ring offset, the first value out of range; the other phases. -/
theorem witness_CfgRotorMeaning :
    State.reset.phase = .config ∧ (0#5).toNat = (0 : Sym26).val ∧ (25#5).toNat = (25 : Sym26).val ∧ 26 ≤ (26#5).toNat
      ∧ atCAT.phase = .ready ∧ faultState.phase = .fault := by decide

theorem witness_CfgReflMeaning :
    State.reset.phase = .config ∧ (0#5).toNat = (0 : ReflCode).val ∧ (2#5).toNat = (2 : ReflCode).val ∧ 3 ≤ (3#5).toNat
      ∧ atCAT.phase = .ready ∧ faultState.phase = .fault := by decide

theorem witness_PlugClearMeaning :
    State.reset.phase = .config ∧ atCAT.phase = .ready ∧ faultState.phase = .fault := by decide

/-- A free pair; one letter twice; the first letter plugged; the second plugged; each field out of range. -/
theorem witness_PlugPairMeaning :
    State.reset.phase = .config ∧ (0#5).toNat = (0 : Sym26).val ∧ (25#5).toNat = (25 : Sym26).val
      ∧ (0 : Sym26) ≠ 25 ∧ State.reset.plug[(0 : Sym26)] = 0 ∧ State.reset.plug[(25 : Sym26)] = 25
      ∧ (addPair identityPlug 0 1)[(0 : Sym26)] ≠ 0 ∧ (addPair identityPlug 0 1)[(25 : Sym26)] = 25
      ∧ 26 ≤ (26#5).toNat ∧ atCAT.phase = .ready ∧ faultState.phase = .fault := by decide +kernel

/-- A complete configuration; none of the four parts valid; a position out of range; the other phases. -/
theorem witness_SetPosMeaning :
    configuredState.phase = .config ∧ configuredState.cfg.posFrameWindow = true ∧ configuredState.left.valid = true
      ∧ configuredState.middle.valid = true ∧ configuredState.right.valid = true ∧ configuredState.refl.valid = true
      ∧ (0#5).toNat = (0 : Sym26).val ∧ (25#5).toNat = (25 : Sym26).val
      ∧ State.reset.phase = .config ∧ State.reset.left.valid = false ∧ State.reset.middle.valid = false
      ∧ State.reset.right.valid = false ∧ State.reset.refl.valid = false
      ∧ 26 ≤ (26#5).toNat ∧ atCAT.phase = .ready ∧ faultState.phase = .fault := by decide

/-- A complete configuration on a core with POS_FRAME_WINDOW false. -/
def offsetFrameState : State := { configuredState with cfg := { defaultConfig with posFrameWindow := false } }

theorem witness_SetPosInTheCoreOffsetFrame :
    offsetFrameState.phase = .config ∧ offsetFrameState.cfg.posFrameWindow = false ∧ offsetFrameState.left.valid = true
      ∧ offsetFrameState.middle.valid = true ∧ offsetFrameState.right.valid = true ∧ offsetFrameState.refl.valid = true
      ∧ (0#5).toNat = (0 : Sym26).val ∧ (25#5).toNat = (25 : Sym26).val := by decide

theorem witness_PressMeaning :
    atCAT.phase = .ready ∧ (0#5).toNat = (0 : Sym26).val ∧ (25#5).toNat = (25 : Sym26).val ∧ 26 ≤ (26#5).toNat
      ∧ State.reset.phase = .config ∧ faultState.phase = .fault := by decide

/-- The first and last letter of each case, and every code beside one. -/
theorem witness_PressCharMeaning :
    atCAT.phase = .ready ∧ (0x41#8).toNat = 0x41 + (0 : Sym26).val ∧ (0x5A#8).toNat = 0x41 + (25 : Sym26).val
      ∧ (0x61#8).toNat = 0x61 + (0 : Sym26).val ∧ (0x7A#8).toNat = 0x61 + (25 : Sym26).val
      ∧ (0x40#8).toNat < 0x41 ∧ (0x5A < (0x5B#8).toNat ∧ (0x60#8).toNat < 0x61) ∧ 0x7A < (0x7B#8).toNat
      ∧ State.reset.phase = .config ∧ faultState.phase = .fault := by decide

/-- V-T2 and V-T3: ADV, the middle rotor one step before its notch, the right at its notch. -/
theorem witness_DoubleStepping :
    (readyAt 0 1 2 0 'A' 'D' 'V').phase = .ready
      ∧ sym 'D' ∉ defaultConfig.rotors[(1 : RotorType)].notches ∧ sym 'V' ∈ defaultConfig.rotors[(2 : RotorType)].notches
      ∧ Fin.ofNat 26 ((sym 'D').val + 1) ∈ defaultConfig.rotors[(1 : RotorType)].notches := by decide

theorem witness_LeftNotchHasNoEffect : (readyAt 0 1 2 0 'Q' 'A' 'A').phase = .ready := by decide

/-- I-II-III / 1,1,1 / B / none, at CAU. -/
def atCAU : State := readyAt 0 1 2 0 'C' 'A' 'U'

/-- The example of R160: W, O, M, W, V, O, Y, D, D. -/
theorem witness_PipelineStages :
    sym 'W' = atCAU.plug[sym 'W']
      ∧ sym 'O' = rotorFwd atCAU.cfg atCAU.right.type atCAU.right.ring atCAU.right.pos (sym 'W')
      ∧ sym 'M' = rotorFwd atCAU.cfg atCAU.middle.type atCAU.middle.ring atCAU.middle.pos (sym 'O')
      ∧ sym 'W' = rotorFwd atCAU.cfg atCAU.left.type atCAU.left.ring atCAU.left.pos (sym 'M')
      ∧ sym 'V' = atCAU.cfg.reflectors[atCAU.refl.id].wiring[sym 'W']
      ∧ sym 'O' = rotorBwd atCAU.cfg atCAU.left.type atCAU.left.ring atCAU.left.pos (sym 'V')
      ∧ sym 'Y' = rotorBwd atCAU.cfg atCAU.middle.type atCAU.middle.ring atCAU.middle.pos (sym 'O')
      ∧ sym 'D' = rotorBwd atCAU.cfg atCAU.right.type atCAU.right.ring atCAU.right.pos (sym 'Y')
      ∧ sym 'D' = atCAU.plug[sym 'D'] := by decide +kernel

theorem witness_FixedStateCipher : PlugInvolution thirteenPairs := by decide +kernel

theorem witness_EncryptionEqualsDecryption : atCAT.phase = .ready ∧ PlugInvolution atCAT.plug := by decide +kernel

theorem witness_SteppingIgnoresTheInput :
    atCAT.phase = .ready ∧ ([0, 25] : List Sym26).length = ([3, 3] : List Sym26).length
      ∧ letterOf? 0x40#8 = none ∧ letterOf? 0x7B#8 = none := by decide

theorem witness_TextConversion : atCAT.phase = .ready := by decide

/-- V-C22, V-C24: FAULT with everything configured; CONFIG with one pair. -/
theorem witness_StatusMeaning :
    (2 : Nat) = (match faultState.phase with | .config => 0 | .ready => 1 | .fault => 2)
      ∧ (0 : Nat) = (Finset.univ.filter fun k : Sym26 => faultState.plug[k] ≠ k).card / 2
      ∧ (15 : Nat) = (if faultState.refl.valid then 8 else 0) + (if faultState.right.valid then 4 else 0)
          + (if faultState.middle.valid then 2 else 0) + (if faultState.left.valid then 1 else 0)
      ∧ (13 : Nat) = (Finset.univ.filter fun k : Sym26 => thirteenPairs[k] ≠ k).card / 2 := by decide +kernel

theorem witness_GetPosMeaning : atCAT.phase = .ready ∧ State.reset.phase = .config ∧ faultState.phase = .fault := by
  decide

theorem atCAT_inv : Inv atCAT := ⟨by decide +kernel, by decide, by decide⟩
theorem faultState_inv : Inv faultState := ⟨by decide +kernel, by decide, by decide⟩

theorem witness_StepKeepsTheInvariant :
    Inv (waiting (.command 0x60000016#32) atCAT) ∧ ∃ t, step (waiting (.command 0x60000016#32) atCAT) = .next t :=
  ⟨⟨atCAT_inv.plug, atCAT_inv.ready, atCAT_inv.response⟩, _, rfl⟩

theorem witness_NoStepChangesTheConfiguration : ∃ t, step (waiting .resetInput mappedAtCAT) = .next t := ⟨_, rfl⟩

theorem witness_KeyIsFrozenOutsideConfig :
    (∃ t, exec .plugClear atCAT = .next t) ∧ atCAT.phase ≠ .config ∧ Instr.plugClear ≠ .reset
      ∧ faultState.phase ≠ .config := ⟨⟨_, rfl⟩, by decide, by decide, by decide⟩

theorem witness_PositionsMoveOnlyInKeyCommands :
    (∃ t, exec (.press 0#5) atCAT = .next t) ∧ Instr.press 0#5 ≠ .reset ∧ ∀ l m r, Instr.press 0#5 ≠ .setPos l m r :=
  ⟨⟨_, rfl⟩, by decide, nofun⟩

theorem witness_CommandsWriteOnlyTheirState :
    (∃ t, exec .status atCAT = .next t) ∧ (∃ t, exec (.cfgRotor 2#2 7#3 25#5) State.reset = .next t)
      ∧ (∃ t, exec (.cfgRefl 2#5) State.reset = .next t) ∧ (∃ t, exec .plugClear State.reset = .next t)
      ∧ (∃ t, exec (.plugPair 0#5 25#5) State.reset = .next t) ∧ (∃ t, exec (.setPos 0#5 0#5 25#5) configuredState = .next t)
      ∧ (∃ t, exec (.press 25#5) atCAT = .next t) ∧ (∃ t, exec (.pressChar 0x7A#8) atCAT = .next t)
      ∧ (∃ t, exec .getPos atCAT = .next t) ∧ ∃ t, exec .reset faultState = .next t :=
  ⟨⟨_, rfl⟩, ⟨_, rfl⟩, ⟨_, rfl⟩, ⟨_, rfl⟩, ⟨_, rfl⟩, ⟨_, rfl⟩, ⟨_, rfl⟩, ⟨_, rfl⟩, ⟨_, rfl⟩, ⟨_, rfl⟩⟩

/-- V-C18: PRESS 27 in READY answers E_RANGE. -/
theorem witness_ErrorsArePrecise :
    ∃ t, execute 0x6000001B#32 atCAT = .next t ∧ rspERR t.rsp ≠ 0#4 ∧ rspERR t.rsp ≠ 8#4 :=
  ⟨{ atCAT with rsp := 0x24000000#32 }, rfl, by decide, by decide⟩

theorem witness_PhaseMovesOnlyBySetPosAndReset :
    (∃ t, execute 0x5000001E#32 atCAT = .next t ∧ t.phase ≠ atCAT.phase)
      ∧ (∃ t, execute 0x50000813#32 configuredState = .next t ∧ t.phase ≠ configuredState.phase)
      ∧ ∃ t, execute 0xF0000000#32 faultState = .next t ∧ t.phase ≠ faultState.phase :=
  ⟨⟨_, rfl, by decide⟩, ⟨_, rfl, by decide⟩, ⟨_, rfl, by decide⟩⟩

theorem witness_FaultIsLeftOnlyByReset :
    faultState.phase = .fault ∧ 0xF0000000#32 ∉ [0x60000000#32, 0x00000000#32]
      ∧ decode 0x60000000#32 = .command (.press 0#5) ∧ Instr.press 0#5 ≠ .status := by decide

/-- Two keys, with another pair each, that the positions and the mask do not tell apart. -/
def keyOne : State := { readyAt 0 1 2 0 'C' 'A' 'T' with plug := addPair identityPlug 0 1 }
def keyTwo : State := { readyAt 5 6 7 25 'C' 'A' 'T' with plug := addPair identityPlug 24 25 }

theorem witness_StatusAndGetPosShowNoKey :
    keyOne.phase = keyTwo.phase ∧ keyOne.left.valid = keyTwo.left.valid ∧ keyOne.middle.valid = keyTwo.middle.valid
      ∧ keyOne.right.valid = keyTwo.right.valid ∧ keyOne.refl.valid = keyTwo.refl.valid
      ∧ pairCount keyOne.plug = pairCount keyTwo.plug ∧ keyOne.left.pos = keyTwo.left.pos
      ∧ keyOne.middle.pos = keyTwo.middle.pos ∧ keyOne.right.pos = keyTwo.right.pos
      ∧ keyOne.plug ≠ keyTwo.plug ∧ keyOne.left.type ≠ keyTwo.left.type := by decide +kernel

/-- Two states alike that differ: the left slot unconfigured, with another type, ring offset and position. -/
theorem witness_ResetValuesAreUnobservable :
    ReadyConfigured State.reset
      ∧ Alike State.reset { State.reset with left := { valid := false, type := 7, pos := 25, ring := 25 } } :=
  ⟨by decide, rfl, ⟨rfl, nofun⟩, ⟨rfl, nofun⟩, ⟨rfl, nofun⟩, fun h => absurd rfl h, rfl, ⟨rfl, nofun⟩, rfl, rfl, rfl, rfl⟩

theorem witness_ConfigurationOrderDoesNotMatter :
    orderFree (.plugPair 0#5 1#5) (.plugPair 24#5 25#5) = true ∧ State.reset.phase = .config
      ∧ ∃ t, exec (.plugPair 0#5 1#5) State.reset = .next t ∧ rspERR t.rsp = 0#4
          ∧ ∃ u, exec (.plugPair 24#5 25#5) t = .next u ∧ rspERR u.rsp = 0#4 :=
  ⟨by decide, by decide, _, rfl, by decide +kernel, _, rfl, by decide +kernel⟩

theorem witness_LastConfigurationWins :
    (∃ t, exec (.cfgRotor 2#2 7#3 25#5) State.reset = .next t
        ∧ ∃ u, exec (.cfgRotor 2#2 0#3 0#5) t = .next u ∧ rspERR u.rsp = 0#4)
      ∧ ∃ t, exec (.cfgRefl 0#5) State.reset = .next t ∧ ∃ u, exec (.cfgRefl 2#5) t = .next u ∧ rspERR u.rsp = 0#4 :=
  ⟨⟨_, rfl, _, rfl, by decide⟩, ⟨_, rfl, _, rfl, by decide⟩⟩

/-- No pair, where a pair is accepted, and thirteen. -/
theorem witness_AtMostThirteenPairs :
    PlugInvolution State.reset.plug ∧ State.reset.phase = .config
      ∧ (∃ t, exec (.plugPair 0#5 25#5) State.reset = .next t ∧ rspERR t.rsp = 0#4)
      ∧ PlugInvolution thirteenPairs ∧ pairCount thirteenPairs = 13 :=
  ⟨by decide +kernel, by decide, ⟨_, rfl, by decide +kernel⟩, by decide +kernel, by decide +kernel⟩

theorem witness_WritingCmdExecutesTheWord :
    mappedAtCAT.cfg.ecoreBlock = some 4
      ∧ (waiting (.busWrite (16 * 4) (bytesOfWord 0x60000016#32)) mappedAtCAT).pending
          = .busWrite (16 * 4) (bytesOfWord 0x60000016#32) :: [] := by decide

theorem witness_OtherBusAccessesHaveNoEffect :
    mappedAtCAT.cfg.ecoreBlock = some 4 ∧ (0 : Nat) ∈ [0, 4, 8, 12] ∧ (12 : Nat) ∈ [0, 4, 8, 12] ∧ (12 : Nat) ≠ 0
      ∧ (waiting (.busRead (16 * 4 + 0) 4) mappedAtCAT).pending = .busRead (16 * 4 + 0) 4 :: []
      ∧ (waiting (.busWrite (16 * 4 + 12) [0#8, 0#8, 0#8, 0#8]) mappedAtCAT).pending
          = .busWrite (16 * 4 + 12) [0#8, 0#8, 0#8, 0#8] :: [] := by decide

theorem witness_UndefinedBusAccessesAreRefused :
    mappedAtCAT.cfg.ecoreBlock = some 4 ∧ (0 : Nat) < 16 ∧ (15 : Nat) < 16
      ∧ (waiting (.busRead (16 * 4 + 0) 2) mappedAtCAT).pending = .busRead (16 * 4 + 0) 2 :: [] ∧ (2 : Nat) ≠ 4
      ∧ (waiting (.busWrite (16 * 4 + 15) [0#8, 0#8, 0#8, 0#8]) mappedAtCAT).pending
          = .busWrite (16 * 4 + 15) [0#8, 0#8, 0#8, 0#8] :: [] ∧ 15 % 4 ≠ 0 := by decide

theorem witness_InstancesShareNothing :
    (∃ system', stepInstance 1 [atCAT, waiting .resetInput faultState] = .next system')
      ∧ ∃ system', stepInstance 2 [atCAT, faultState] = .next system' := ⟨⟨_, rfl⟩, ⟨_, rfl⟩⟩

theorem witness_AssembledWordsAreWellFormed : ∃ ws, assemble [['K','E','Y',' ','"','A','Z','"']] = some ws :=
  ⟨[0x60000000#32, 0x60000019#32], by decide +kernel⟩

/-- P5's three pairs, and none. -/
theorem witness_BootSequenceReachesReady :
    (([(0, 25), (1, 24), (2, 23)] : List (Sym26 × Sym26)).flatMap fun p => [p.1, p.2]).Nodup
      ∧ (([] : List (Sym26 × Sym26)).flatMap fun p => [p.1, p.2]).Nodup := by decide

theorem witness_RekeyedMachineDecrypts :
    faultState.cfg = State.reset.cfg
      ∧ (([(0, 25), (1, 24), (2, 23)] : List (Sym26 × Sym26)).flatMap fun p => [p.1, p.2]).Nodup := ⟨rfl, by decide⟩

end Sys2Proof.Machine.Tests
end

section
/-! SUPPORT. What the whole-machine proofs about 10_state.md start from, beside Laws/: updates of a slot not yet known,
responses as updates of RSP, what a command can do outside CONFIG, to the positions and to PHASE, and what a step keeps
once every command keeps it. -/

namespace Sys2Proof.Machine

/-! ### Updates of a slot not yet known, and responses -/

section
variable (s : State) (i : SlotId) (v : Slot)

@[simp] theorem State.withSlot_phase : (s.withSlot i v).phase = s.phase := by cases i <;> rfl
@[simp] theorem State.withSlot_plug : (s.withSlot i v).plug = s.plug := by cases i <;> rfl
@[simp] theorem State.withSlot_refl : (s.withSlot i v).refl = s.refl := by cases i <;> rfl
@[simp] theorem State.withSlot_cfg : (s.withSlot i v).cfg = s.cfg := by cases i <;> rfl

end

/-- A success response writes RSP only (R84, R86). -/
theorem respondWith_eq (s : State) (v : Bool) (o : Byte) (d2 d1 d0 : Field5) :
    respondWith s v o d2 d1 d0 = s.withRsp (responseWord okCode s.phase v o d2 d1 d0) := rfl

/-- A success response with no field listed writes RSP only (R86). -/
theorem respond_eq (s : State) : respond s = s.withRsp (responseWord okCode s.phase false 0#8 0#5 0#5 0#5) := rfl

/-- A complete configuration, part by part (R185). -/
theorem configured_iff {s : State} :
    configured s = true ↔ s.left.valid = true ∧ s.middle.valid = true ∧ s.right.valid = true ∧ s.refl.valid = true := by
  simp only [configured, Bool.and_eq_true, and_assoc]

/-- The step controller writes positions only (R140). -/
theorem stepController_frame (s : State) :
    stepController s =
      { s with
        left := { s.left with pos := (stepController s).left.pos },
        middle := { s.middle with pos := (stepController s).middle.pos },
        right := { s.right with pos := (stepController s).right.pos } } := by
  rw [stepController_eq]

/-- A key press moves each rotor by 0 or by 1 (R108, R145). -/
theorem stepController_pos (s : State) :
    ((stepController s).left.pos = s.left.pos ∨ (stepController s).left.pos = s.left.pos + 1)
      ∧ ((stepController s).middle.pos = s.middle.pos ∨ (stepController s).middle.pos = s.middle.pos + 1)
      ∧ ((stepController s).right.pos = s.right.pos ∨ (stepController s).right.pos = s.right.pos + 1) := by
  rw [stepController_eq]
  exact ⟨(ite_eq_or_eq _ _ _).symm, (ite_eq_or_eq _ _ _).symm, .inr rfl⟩

/-- What a key press leaves unchanged: all but the positions and RSP (R38). -/
theorem keyPress_frame (x : Sym26) (s : State) :
    keyPress x s =
      { s with
        left := { s.left with pos := (keyPress x s).left.pos },
        middle := { s.middle with pos := (keyPress x s).middle.pos },
        right := { s.right with pos := (keyPress x s).right.pos },
        rsp := (keyPress x s).rsp } := by
  rw [keyPress_eq, stepController_frame]
  rfl

/-! ### Coarser readings of Effect -/

/-- Outside CONFIG, a command other than RESET changes at most RSP and either PHASE or the positions (R34 (a)). -/
theorem Effect.outside_config {s t : State} {i : Instr} (h : Effect s i t) (hp : s.phase ≠ .config) (hi : i ≠ .reset) :
    ∃ w, t = s.withRsp w ∨ t = (s.withPhase .fault).withRsp w ∨ t = (stepController s).withRsp w := by
  cases h with
  | error | status | skipChar | getPos => exact ⟨_, .inl rfl⟩
  | misuse => exact ⟨_, .inr (.inl rfl)⟩
  | press f x | pressChar c x => exact ⟨_, .inr (.inr (keyPress_eq x s))⟩
  | cfgRotor _ _ _ _ _ hc | cfgRefl _ _ hc | plugClear hc | plugPair _ _ _ _ hc | setPos _ _ _ _ _ _ hc =>
    exact absurd hc hp
  | reset => exact absurd rfl hi

/-- A command other than RESET and SET_POS leaves the positions, or is a key command in READY that steps (R34 (b)). -/
theorem Effect.positions {s t : State} {i : Instr} (h : Effect s i t) (hi : i ≠ .reset)
    (hs : ∀ l m r, i ≠ .setPos l m r) :
    (t.left.pos = s.left.pos ∧ t.middle.pos = s.middle.pos ∧ t.right.pos = s.right.pos)
      ∨ (s.phase = .ready ∧ ((∃ k, i = .press k) ∨ ∃ c, i = .pressChar c)) ∧ ∃ w, t = (stepController s).withRsp w := by
  cases h with
  | error | status | skipChar | getPos | cfgRefl | plugClear | plugPair => exact .inl ⟨rfl, rfl, rfl⟩
  | cfgRotor _ _ _ j => cases j <;> exact .inl ⟨rfl, rfl, rfl⟩
  | press f x hp => exact .inr ⟨⟨hp, .inl ⟨_, rfl⟩⟩, _, keyPress_eq x s⟩
  | pressChar c x hp => exact .inr ⟨⟨hp, .inr ⟨_, rfl⟩⟩, _, keyPress_eq x s⟩
  | misuse | setPos => exact absurd rfl (hs _ _ _)
  | reset => exact absurd rfl hi

/-- The phase stays, or moves by one of the three ways of R21. -/
theorem Effect.phase {s t : State} {i : Instr} (h : Effect s i t) :
    t.phase = s.phase
      ∨ (s.phase = .config ∧ t.phase = .ready ∧ ∃ l m r, i = .setPos l m r)
      ∨ (s.phase = .ready ∧ t.phase = .fault ∧ ∃ l m r, i = .setPos l m r)
      ∨ (t.phase = .config ∧ i = .reset) := by
  cases h with
  | error | status | skipChar | getPos | cfgRefl | plugClear | plugPair => exact .inl rfl
  | cfgRotor => exact .inl (State.withSlot_phase ..)
  | press | pressChar => exact .inl (keyPress_phase ..)
  | setPos _ _ _ _ _ _ hp => exact .inr (.inl ⟨hp, rfl, _, _, _, rfl⟩)
  | misuse _ _ _ hp => exact .inr (.inr (.inl ⟨hp, rfl, _, _, _, rfl⟩))
  | reset => exact .inr (.inr (.inr ⟨rfl, rfl⟩))

/-- No command writes a parameter (R29). -/
theorem Effect.cfg {s t : State} {i : Instr} (h : Effect s i t) : t.cfg = s.cfg := by
  cases h with
  | error | misuse | status | skipChar | getPos | cfgRefl | plugClear | plugPair | setPos | reset => rfl
  | cfgRotor => exact State.withSlot_cfg ..
  | press f x | pressChar c x => rw [keyPress_eq]; exact stepController_cfg s

/-! ### From commands to steps -/

/-- What a step keeps: a predicate that no change of the host's fields touches, that RESET establishes, and that an
illegal word and every command keep. -/
theorem step_keeps {P : State → Prop} (host : ∀ s p o, P s → P (s.withHost p o))
    (reset : ∀ s, P s → P (resetCore s))
    (illegal : ∀ s, P s → P (s.withRsp (errorWord .illegal s.phase)))
    (command : ∀ s i t, P s → Effect s i t → P t) {s t : State} (hs : P s) (h : step s = .next t) : P t := by
  rcases step_cases h with rfl | ⟨a, rest, -, ⟨w, hw⟩ | ⟨o, rfl⟩ | rfl⟩
  · exact hs
  · have hs' : P { s with pending := rest } := host s rest s.observed hs
    obtain ⟨u, hu, rfl⟩ := runCommand_cases _ _ _ hw
    have hPu : P u := by
      rcases execute_cases hu with ⟨-, rfl⟩ | ⟨i, -, hi⟩
      · exact illegal _ hs'
      · exact command _ i _ hs' (exec_effect hi)
    exact host u u.pending _ hPu
  · exact host s rest o hs
  · exact reset _ (host s rest s.observed hs)

end Sys2Proof.Machine
end

section
/-! The frame statements of 10_state.md. -/

namespace Sys2Proof.Machine

/-- Settles O40: every command and every change of the host's fields leaves cfg. -/
theorem noStepChangesTheConfiguration : Obligations.NoStepChangesTheConfiguration := by
  intro s t h
  exact step_keeps (P := fun u => u.cfg = s.cfg) (fun _ _ _ hu => hu) (fun _ hu => hu) (fun _ hu => hu)
    (fun _ _ _ hu he => he.cfg.trans hu) rfl h

/-- Settles O41, from the three things a command can do outside CONFIG. -/
theorem keyIsFrozenOutsideConfig : Obligations.KeyIsFrozenOutsideConfig := by
  intro i s t h hp hi
  obtain ⟨w, rfl | rfl | rfl⟩ := (exec_effect h).outside_config hp hi
  · exact ⟨rfl, rfl, rfl, rfl, rfl⟩
  · exact ⟨rfl, rfl, rfl, rfl, rfl⟩
  · rw [stepController_frame]
    exact ⟨rfl, rfl, rfl, rfl, rfl⟩

/-- Settles O42: where the positions change, the step controller moved them. -/
theorem positionsMoveOnlyInKeyCommands : Obligations.PositionsMoveOnlyInKeyCommands := by
  intro i s t h hi hs
  rcases (exec_effect h).positions hi hs with ⟨hl, hm, hr⟩ | ⟨hkey, w, rfl⟩
  · exact ⟨.inl ⟨hl, hm, hr⟩, .inl hl, .inl hm, .inl hr⟩
  · exact ⟨.inr hkey, stepController_pos s⟩

/-- Settles O43: one command after the other, from everything it can do. -/
theorem commandsWriteOnlyTheirState : Obligations.CommandsWriteOnlyTheirState := by
  refine fun s t => ⟨fun h => ?status, fun a b c h => ?cfgRotor, fun u h => ?cfgRefl, fun h => ?plugClear,
    fun a b h => ?plugPair, fun l m r h => ?setPos, fun x h => ?press, fun c h => ?pressChar, fun h => ?getPos,
    fun h => ?reset⟩
  case cfgRotor =>
    cases exec_effect h with
    | error => exact ⟨rfl, rfl, rfl, rfl⟩
    | cfgRotor _ _ _ i => cases i <;> exact ⟨rfl, rfl, rfl, rfl⟩
  case press =>
    cases exec_effect h with
    | error => rfl
    | press _ x => exact keyPress_frame x s
  case pressChar =>
    cases exec_effect h with
    | error | skipChar => rfl
    | pressChar _ x => exact keyPress_frame x s
  -- Everything the other commands can do is an update of fields of their row alone.
  all_goals cases exec_effect h <;> rfl

/-- Settles O46: a word that is no command leaves PHASE, and a command moves it by R21. -/
theorem phaseMovesOnlyBySetPosAndReset : Obligations.PhaseMovesOnlyBySetPosAndReset := by
  intro w s t h hne
  rcases execute_cases h with ⟨-, rfl⟩ | ⟨i, hw, hi⟩
  · exact absurd rfl hne
  · rcases (exec_effect hi).phase with hsame | ⟨hs, ht, l, m, r, rfl⟩ | ⟨hs, ht, l, m, r, rfl⟩ | ⟨ht, rfl⟩
    · exact absurd hsame hne
    · exact .inl ⟨hs, ht, l, m, r, hw⟩
    · exact .inr (.inl ⟨hs, ht, l, m, r, hw⟩)
    · exact .inr (.inr ⟨ht, hw⟩)

end Sys2Proof.Machine
end

section
/-! The invariant of 10_state.md R26, R34 and 30_encoding.md R84: the response words read as their layout says, the
plugboard stays an involution, READY keeps a complete configuration. -/

namespace Sys2Proof.Machine

/-! ### The fields a response word reads back (R84) -/

section
variable (err : BitVec 4) (p : Phase) (v : Bool) (o : Byte) (d2 d1 d0 : Field5)

@[simp] theorem rspERR_responseWord_any : rspERR (responseWord err p v o d2 d1 d0) = err := by
  simp (disch := omega) only [rspERR, responseWord, field_or, field_place_above, field_place_same]
  simp

@[simp] theorem rspPHASE_responseWord : rspPHASE (responseWord err p v o d2 d1 d0) = p.code := by
  simp (disch := omega) only [rspPHASE, responseWord, field_or, field_place_above, field_place_below, field_place_same]
  simp

@[simp] theorem rspVALID_responseWord : rspVALID (responseWord err p v o d2 d1 d0) = BitVec.ofBool v := by
  simp (disch := omega) only [rspVALID, responseWord, field_or, field_place_above, field_place_below, field_place_same]
  simp

@[simp] theorem rspBit24_responseWord : rspBit24 (responseWord err p v o d2 d1 d0) = 0#1 := by
  simp (disch := omega) only [rspBit24, responseWord, field_or, field_place_above, field_place_below]
  simp

@[simp] theorem rspOCHAR_responseWord : rspOCHAR (responseWord err p v o d2 d1 d0) = o := by
  simp (disch := omega) only [rspOCHAR, responseWord, field_or, field_place_above, field_place_below, field_place_same]
  simp

@[simp] theorem rspBit15_responseWord : rspBit15 (responseWord err p v o d2 d1 d0) = 0#1 := by
  simp (disch := omega) only [rspBit15, responseWord, field_or, field_place_above, field_place_below]
  simp

@[simp] theorem rspD0_responseWord : rspD0 (responseWord err p v o d2 d1 d0) = d0 := by
  simp (disch := omega) only [rspD0, responseWord, field_or, field_place_below, field_place_same]
  simp

end

/-! ### Lawful responses -/

/-- Every error code is one of 1 to 9 (R240). -/
theorem errCode_le (e : ErrCode) : e.code.toNat ≤ 9 := by cases e <;> decide

@[simp] theorem toNat_capitalOf (y : Sym26) : (capitalOf y).toNat = 0x41 + y.val := by
  simp only [capitalOf, BitVec.toNat_ofNat]
  omega

/-- A response without an output letter is lawful, at the phase it shows. -/
theorem responseLawful_quiet {s : State} {err : BitVec 4} {d2 d1 d0 : Field5}
    (hr : s.rsp = responseWord err s.phase false 0#8 d2 d1 d0) (he : err.toNat ≤ 9) : ResponseLawful s := by
  rw [ResponseLawful, hr]
  simp [he]

/-- The response of a key press in READY is lawful. -/
theorem responseLawful_key {s : State} {y : Sym26} (hp : s.phase = .ready)
    (hr : s.rsp = responseWord okCode s.phase true (capitalOf y) 0#5 0#5 (fieldOfSymbol y)) : ResponseLawful s := by
  rw [ResponseLawful, hr]
  simp [okCode, hp]

/-! ### The plugboard -/

theorem plugInvolution_identityPlug : PlugInvolution identityPlug := fun k => by simp

/-- A pair of unplugged letters keeps the involution (R26, R183). -/
protected theorem PlugInvolution.addPair {plug : Vector Sym26 26} {a b : Sym26} (h : PlugInvolution plug)
    (ha : swap plug a = a) (hb : swap plug b = b) : PlugInvolution (addPair plug a b) := by
  intro k
  rw [swap_addPair _ _ _ k]
  by_cases hkb : k = b
  · by_cases hab : a = b <;> simp [hkb, hab, swap_addPair]
  by_cases hka : k = a
  · simp [hka, swap_addPair]
  have hne : ∀ x, swap plug x = x → k ≠ x → swap plug k ≠ x := fun x hx hkx hk => hkx (by rw [← h k, hk, hx])
  simp [hka, hkb, swap_addPair, hne a ha hka, hne b hb hkb, h k]

/-! ### The invariant -/

theorem Inv.withHost {s : State} (h : Inv s) (p : List HostAction) (o : List Observation) : Inv (s.withHost p o) :=
  ⟨h.plug, h.ready, h.response⟩

protected theorem Inv.resetCore (s : State) : Inv (resetCore s) :=
  ⟨plugInvolution_identityPlug, nofun, responseLawful_quiet (err := okCode) (plainResponse_eq .config).symm (by decide)⟩

/-- An error other than E_MISUSE keeps the invariant (R245). -/
theorem Inv.error {s : State} (h : Inv s) (e : ErrCode) : Inv (s.withRsp (errorWord e s.phase)) :=
  ⟨h.plug, h.ready, responseLawful_quiet rfl (errCode_le e)⟩

/-- A success response without an output letter establishes the part of the invariant that speaks of RSP. -/
protected theorem Inv.respondWith {s : State} (hplug : PlugInvolution s.plug) (hready : ReadyConfigured s)
    (d2 d1 d0 : Field5) : Inv (respondWith s false 0#8 d2 d1 d0) :=
  ⟨hplug, hready, responseLawful_quiet rfl (by decide)⟩

/-- The same of a success response with no field listed. -/
protected theorem Inv.respond {s : State} (hplug : PlugInvolution s.plug) (hready : ReadyConfigured s) :
    Inv (respond s) := .respondWith hplug hready _ _ _

/-- A key press in READY keeps the invariant: it moves positions only, and its response is lawful. -/
protected theorem Inv.keyPress {s : State} (h : Inv s) (hp : s.phase = .ready) (x : Sym26) : Inv (keyPress x s) := by
  have hconf : configured (stepController s) = configured s := by rw [stepController_frame]; rfl
  rw [keyPress_eq]
  refine ⟨?_, fun _ => hconf.trans (h.ready hp), ?_⟩
  · rw [State.withRsp_plug, stepController_plug]
    exact h.plug
  · have hphase : (stepController s).phase = .ready := (stepController_phase s).trans hp
    exact responseLawful_key (y := pipeline (stepController s) x) hphase (by simp [hp])

/-- In CONFIG, READY implies anything (R34 (e)). -/
theorem readyConfigured_of_config {s : State} (hp : s.phase = .config) : ReadyConfigured s :=
  fun hr => by simp [hp] at hr

/-- Every command keeps the invariant. -/
theorem Inv.effect {s t : State} {i : Instr} (h : Inv s) (he : Effect s i t) : Inv t := by
  cases he with
  | error _ e => exact h.error e
  | misuse => exact ⟨h.plug, nofun, responseLawful_quiet (errorWord_eq .misuse .fault).symm (errCode_le .misuse)⟩
  | status | getPos => exact .respondWith h.plug h.ready _ _ _
  | skipChar => exact .respond h.plug h.ready
  | cfgRotor _ _ _ _ _ hp => exact .respond (by simpa using h.plug) (readyConfigured_of_config (by simpa using hp))
  | cfgRefl _ _ hp => exact .respond h.plug (readyConfigured_of_config hp)
  | plugClear hp => exact .respond plugInvolution_identityPlug (readyConfigured_of_config hp)
  | plugPair _ _ _ _ hp _ _ _ ha hb => exact .respond (h.plug.addPair ha hb) (readyConfigured_of_config hp)
  | setPos _ _ _ _ _ _ _ _ _ _ hc => exact .respond h.plug (fun _ => hc)
  | press _ x hp | pressChar _ x hp => exact h.keyPress hp x
  | reset => exact .resetCore s

/-- Settles O39: the invariant is one of the predicates that steps keep, since commands, illegal words and resets do. -/
theorem stepKeepsTheInvariant : Obligations.StepKeepsTheInvariant := by
  intro s t hs h
  exact step_keeps (fun _ p o hu => hu.withHost p o) (fun u _ => .resetCore u) (fun _ hu => hu.error .illegal)
    (fun _ _ _ hu he => hu.effect he) hs h

/-- Settles O38: the state after reset is what RESET leaves. -/
theorem resetMeetsTheInvariant : Obligations.ResetMeetsTheInvariant := Inv.resetCore State.reset

/-- Settles O37: R37's values, field by field. -/
theorem resetStateIsUnconfigured : Obligations.ResetStateIsUnconfigured :=
  ⟨rfl, rfl, rfl, rfl, rfl, rfl, swap_identityPlug⟩

end Sys2Proof.Machine
end

section
/-! How a program word is presented to the machine (log entry 1). -/

namespace Sys2Proof.Machine

/-- A word as the opcode table numbers its bits decodes as the word the model presents. -/
theorem decode_tableWord {nbits w : Nat} {i : Instr} (h : decodeTableWord nbits w = some i) :
    decode (tableWord nbits w) = .command i := by
  simp only [decodeTableWord, bytesOfWord, decodeBytes, wordOfBytes_fields] at h
  cases hd : decode (tableWord nbits w) with
  | illegal e => simp [hd] at h
  | command j => simpa [hd] using h

/-- A step with a word presented runs that word at the state without it. -/
theorem step_withFetchWord (s : State) (nbits w : Nat) :
    step (s.withFetchWord nbits w) = runCommand (tableWord nbits w) s := rfl

/-- Settles O7: the presented word is in front, decodes to i, and exec of i completes. -/
theorem fetchWordIsRunNext : Obligations.FetchWordIsRunNext := by
  intro s nbits w i h
  obtain ⟨t, ht⟩ := exec_next i s
  refine ⟨t, ht, ?_⟩
  rw [step_withFetchWord]
  simp only [runCommand, execute, decode_tableWord h, ht]
  rfl

end Sys2Proof.Machine
end

section
/-! States that no command can tell apart (10_state.md R37, U14): one run per state, command by command. In READY the
relation Alike is equality, because READY implies a complete configuration; what is left are CONFIG, where the positions
do not show, and FAULT, where only STATUS and RESET do more than answer. -/

namespace Sys2Proof.Machine

/-! ### Alike and the updates of a state -/

theorem slotAlike_refl (v : Slot) : SlotAlike v v := ⟨rfl, fun _ => ⟨rfl, rfl⟩⟩

@[refl] theorem alike_refl (s : State) : Alike s s :=
  ⟨rfl, slotAlike_refl _, slotAlike_refl _, slotAlike_refl _, fun _ => ⟨rfl, rfl, rfl⟩, rfl,
    ⟨rfl, fun _ => rfl⟩, rfl, rfl, rfl, rfl⟩

/-- Configured slots that are alike and stand at one position are equal. -/
theorem SlotAlike.eq {v w : Slot} (h : SlotAlike v w) (hv : v.valid = true) (hp : v.pos = w.pos) : v = w := by
  obtain ⟨hvalid, hkey⟩ := h
  obtain ⟨htype, hring⟩ := hkey hv
  exact (Slot.mk.injEq ..).mpr ⟨hvalid, htype, hp, hring⟩

theorem Alike.withRsp {s t : State} (h : Alike s t) (w : Word) : Alike (s.withRsp w) (t.withRsp w) := { h with rsp := rfl }

theorem Alike.withPlug {s t : State} (h : Alike s t) (m : Vector Sym26 26) : Alike (s.withPlug m) (t.withPlug m) :=
  { h with plug := rfl }

theorem Alike.withRefl {s t : State} (h : Alike s t) (r : Reflector) : Alike (s.withRefl r) (t.withRefl r) :=
  { h with refl := ⟨rfl, fun _ => rfl⟩ }

theorem Alike.observe {s t : State} (h : Alike s t) (o : Observation) : Alike (s.observe o) (t.observe o) :=
  { h with observed := congrArg (o :: ·) h.observed }

theorem Alike.withPending {s t : State} (h : Alike s t) (p : List HostAction) :
    Alike { s with pending := p } { t with pending := p } := { h with pending := rfl }

/-- A reset forgets all that may differ. -/
protected theorem Alike.resetCore {s t : State} (h : Alike s t) : Alike (resetCore s) (resetCore t) := by
  rw [resetCore, resetCore, h.cfg, h.pending, h.observed]

/-- Slots written alike in CONFIG, where no position shows. -/
theorem Alike.withSlot {s t : State} (h : Alike s t) (hp : s.phase = .config) (i : SlotId) {v w : Slot}
    (hv : SlotAlike v w) : Alike (s.withSlot i v) (t.withSlot i w) := by
  cases i with
  | left => exact { h with left := hv, pos := fun hc => absurd hp hc }
  | middle => exact { h with middle := hv, pos := fun hc => absurd hp hc }
  | right => exact { h with right := hv, pos := fun hc => absurd hp hc }

protected theorem Alike.respondWith {s t : State} (h : Alike s t) (v : Bool) (o : Byte) (d2 d1 d0 : Field5) :
    Alike (respondWith s v o d2 d1 d0) (respondWith t v o d2 d1 d0) := by
  rw [respondWith_eq, respondWith_eq, h.phase]
  exact h.withRsp _

protected theorem Alike.respond {s t : State} (h : Alike s t) : Alike (respond s) (respond t) := h.respondWith _ _ _ _ _

protected theorem Alike.raiseErr {s t : State} (h : Alike s t) {e : ErrCode} (he : e ≠ .misuse) :
    Alike (raiseErr e s) (raiseErr e t) := by
  rw [raiseErr_of_ne e s he, raiseErr_of_ne e t he, h.phase]
  exact h.withRsp _

/-! ### What shows is the same -/

protected theorem Alike.configured {s t : State} (h : Alike s t) : configured s = configured t := by
  simp only [configured, h.left.1, h.middle.1, h.right.1, h.refl.1]

protected theorem Alike.configMask {s t : State} (h : Alike s t) : configMask s = configMask t := by
  simp only [configMask, h.left.1, h.middle.1, h.right.1, h.refl.1]

/-- A selected reflector shows whole. -/
theorem Alike.refl_eq {s t : State} (h : Alike s t) (hv : s.refl.valid = true) : s.refl = t.refl := by
  obtain ⟨hvalid, hid⟩ := h.refl
  exact (Reflector.mk.injEq ..).mpr ⟨hvalid, hid hv⟩

/-- In READY, with a complete configuration, everything shows. -/
theorem Alike.eq_of_ready {s t : State} (h : Alike s t) (hs : ReadyConfigured s) (hp : s.phase = .ready) : s = t := by
  obtain ⟨hl, hm, hr, hu⟩ := configured_iff.1 (hs hp)
  obtain ⟨pl, pm, pr⟩ := h.pos (by simp [hp])
  have hleft := h.left.eq hl pl
  have hmiddle := h.middle.eq hm pm
  have hright := h.right.eq hr pr
  have hrefl := h.refl_eq hu
  obtain ⟨hphase, -, -, -, -, hplug, -, hrsp, hcfg, hpending, hobserved⟩ := h
  exact (State.mk.injEq ..).mpr ⟨hphase, hleft, hmiddle, hright, hplug, hrefl, hrsp, hcfg, hpending, hobserved⟩

/-- SET_POS writes the positions from operands, ring offsets of configured slots and POS_FRAME_WINDOW alone. -/
theorem Alike.setPos {s t : State} (h : Alike s t) (hc : configured s = true) (l m r : Sym26) :
    Alike
      ((((s.withPos .left (initialPos s.cfg s.left.ring l)).withPos .middle (initialPos s.cfg s.middle.ring m)).withPos
        .right (initialPos s.cfg s.right.ring r)).withPhase .ready)
      ((((t.withPos .left (initialPos t.cfg t.left.ring l)).withPos .middle (initialPos t.cfg t.middle.ring m)).withPos
        .right (initialPos t.cfg t.right.ring r)).withPhase .ready) := by
  obtain ⟨hl, hm, hr, -⟩ := configured_iff.1 hc
  have hpos (v w : Slot) (hv : SlotAlike v w) (hvalid : v.valid = true) (x : Sym26) :
      initialPos s.cfg v.ring x = initialPos t.cfg w.ring x := by rw [h.cfg, (hv.2 hvalid).2]
  exact { h with
    phase := rfl
    pos := fun _ => ⟨hpos _ _ h.left hl l, hpos _ _ h.middle hm m, hpos _ _ h.right hr r⟩ }

/-! ### Outcomes alike -/

/-- Two outcomes of one kind: next states alike, or the same reason to stop. -/
def OutcomeAlike : Host.Outcome State Fault Refusal → Host.Outcome State Fault Refusal → Prop
  | .next s, .next t => Alike s t
  | .fault r, .fault r' => r = r'
  | .refused r, .refused r' => r = r'
  | _, _ => False

@[refl] theorem OutcomeAlike.refl (o : Host.Outcome State Fault Refusal) : OutcomeAlike o o := by
  cases o with
  | next s => exact alike_refl s
  | fault | refused => rfl

theorem OutcomeAlike.of_next {s : State} {o : Host.Outcome State Fault Refusal} (h : OutcomeAlike (.next s) o) :
    ∃ t, o = .next t ∧ Alike s t := by
  cases o with
  | next t => exact ⟨t, rfl, h⟩
  | fault | refused => exact h.elim

theorem OutcomeAlike.of_fault {r : Fault} {o : Host.Outcome State Fault Refusal} (h : OutcomeAlike (.fault r) o) :
    o = .fault r := by
  cases o with
  | fault r' => exact congrArg _ (Eq.symm h)
  | next | refused => exact h.elim

theorem OutcomeAlike.of_refused {r : Refusal} {o : Host.Outcome State Fault Refusal}
    (h : OutcomeAlike (.refused r) o) : o = .refused r := by
  cases o with
  | refused r' => exact congrArg _ (Eq.symm h)
  | next | fault => exact h.elim

theorem afterPrelude_alike {s t : State} {f : State → State} (h : Alike s t)
    (body : s.phase ≠ .fault → Alike (f s) (f t)) : OutcomeAlike (afterPrelude s f) (afterPrelude t f) := by
  unfold afterPrelude
  rw [← h.phase]
  split
  · exact h.raiseErr (by decide)
  · exact body ‹_›

theorem configCommand_alike {s t : State} {f : State → State} (h : Alike s t)
    (body : s.phase = .config → Alike (f s) (f t)) : OutcomeAlike (configCommand s f) (configCommand t f) := by
  refine afterPrelude_alike h fun hf => ?_
  rw [← h.phase]
  split
  · exact h.raiseErr (by decide)
  · exact body (by cases hp : s.phase <;> simp_all)

/-- A command that needs positions runs its body in READY only, where the states are equal. -/
theorem readyCommand_alike {s t : State} (h : Alike s t) (hs : ReadyConfigured s) (body : State → State) :
    OutcomeAlike (readyCommand s body) (readyCommand t body) := by
  refine afterPrelude_alike h fun hf => ?_
  rw [← h.phase]
  split
  · exact h.raiseErr (by decide)
  · rw [h.eq_of_ready hs (by cases hp : s.phase <;> simp_all)]

/-- A command answers states that are alike with states that are alike. -/
theorem exec_alike {s t : State} (h : Alike s t) (hs : ReadyConfigured s) (i : Instr) :
    OutcomeAlike (exec i s) (exec i t) := by
  cases i with
  | status =>
    simp only [exec, execStatus, ← h.plug, ← h.configMask]
    exact h.respondWith _ _ _ _ _
  | cfgRotor c ty f =>
    simp only [exec, execCfgRotor]
    refine configCommand_alike h fun hp => ?_
    split
    · exact .respond (h.withSlot hp _ ⟨rfl, fun _ => ⟨rfl, rfl⟩⟩)
    · exact h.raiseErr (by decide)
  | cfgRefl f =>
    simp only [exec, execCfgRefl]
    refine configCommand_alike h fun _ => ?_
    split
    · exact (h.withRefl _).respond
    · exact h.raiseErr (by decide)
  | plugClear =>
    simp only [exec, execPlugClear]
    exact configCommand_alike h fun _ => (h.withPlug _).respond
  | plugPair f g =>
    simp only [exec, execPlugPair]
    refine configCommand_alike h fun _ => ?_
    simp only [← h.plug]
    split
    · split
      · exact h.raiseErr (by decide)
      · split
        · exact h.raiseErr (by decide)
        · exact (h.withPlug _).respond
    · exact h.raiseErr (by decide)
  | setPos fa fb fc =>
    simp only [exec, execSetPos]
    refine afterPrelude_alike h fun _ => ?_
    simp only [← h.phase, ← h.configured]
    split
    · rw [h.eq_of_ready hs ‹_›]
    · split
      · split
        · exact (h.setPos ‹_› _ _ _).respond
        · exact h.raiseErr (by decide)
      · exact h.raiseErr (by decide)
  | press key =>
    simp only [exec, execPress]
    exact readyCommand_alike h hs _
  | pressChar char =>
    simp only [exec, execPressChar]
    exact readyCommand_alike h hs _
  | getPos =>
    simp only [exec, execGetPos]
    exact readyCommand_alike h hs _
  | reset => exact h.resetCore.respond

/-- So does a command word, and the pair in the host's record is the same. -/
theorem runCommand_alike {s t : State} (h : Alike s t) (hs : ReadyConfigured s) (w : Word) :
    OutcomeAlike (runCommand w s) (runCommand w t) := by
  have hw : OutcomeAlike (execute w s) (execute w t) := by
    unfold execute
    split
    · exact h.raiseErr (by decide)
    · exact exec_alike h hs _
  obtain ⟨u, hu⟩ := execute_next w s
  obtain ⟨v, hv⟩ := execute_next w t
  rw [hu, hv] at hw
  have huv : Alike u v := hw
  simp only [runCommand, hu, hv, huv.rsp]
  exact huv.observe _

theorem busRead_alike {s t : State} (h : Alike s t) (addr bytes : Nat) :
    OutcomeAlike (busRead addr bytes s) (busRead addr bytes t) := by
  simp only [busRead, busReadValue, h.cfg, h.rsp]
  split
  · rfl
  · split
    · exact h.observe _
    · rfl

theorem busWrite_alike {s t : State} (h : Alike s t) (hs : ReadyConfigured s) (addr : Nat) (data : List Byte) :
    OutcomeAlike (busWrite addr data s) (busWrite addr data t) := by
  simp only [busWrite, h.cfg]
  split
  · rfl
  · split
    · split
      · exact runCommand_alike h hs _
      · exact h
    · rfl

/-- Two states alike step alike, whatever the host's next action is. -/
theorem step_alike {s t : State} (h : Alike s t) (hs : ReadyConfigured s) : OutcomeAlike (step s) (step t) := by
  unfold step performNext
  rw [← h.pending]
  split
  · exact h
  · rename_i a rest hp
    have hrest := h.withPending rest
    cases a with
    | command w => exact runCommand_alike hrest hs w
    | readRsp =>
      have hrsp : s.rsp = t.rsp := h.rsp
      exact hrsp ▸ hrest.observe _
    | resetInput => exact hrest.resetCore
    | busRead addr bytes => exact busRead_alike hrest addr bytes
    | busWrite addr data => exact busWrite_alike hrest hs addr data

/-- Settles O49: the outcomes of the two steps are alike, whichever of the three the first is. -/
theorem resetValuesAreUnobservable : Obligations.ResetValuesAreUnobservable := by
  intro s t hs h
  have hstep := step_alike h hs
  refine ⟨fun s' hs' => ?_, fun r hr => ?_, fun r hr => ?_⟩
  · rw [hs'] at hstep
    exact hstep.of_next
  · rw [hr] at hstep
    exact hstep.of_fault
  · rw [hr] at hstep
    exact hstep.of_refused

end Sys2Proof.Machine
end

section
/-! The byte order of a byte-wide transport (20_memory.md R54). -/

namespace Sys2Proof

/-- A field in plain arithmetic: shift down, then cut to its width. -/
theorem field_eq_ofNat (lsb n : Nat) (w : Word) : field lsb n w = BitVec.ofNat n (w.toNat / 2 ^ lsb) := by
  rw [← Nat.shiftRight_eq_div_pow]
  rfl

theorem getElem?_bytesOfWord (w : Word) {k : Nat} (hk : k < 4) : (bytesOfWord w)[k]? = some (field (8 * k) 8 w) := by
  interval_cases k <;> rfl

@[simp] theorem decodeBytes_bytesOfWord (w : Word) (rest : List Byte) :
    decodeBytes (bytesOfWord w ++ rest) = (decode w, rest) := by
  simp [bytesOfWord, decodeBytes]

/-- Settles O5: byte k is the field of eight bits at 8k, and the four fields put together are the word. -/
theorem bytesAreLittleEndian : Obligations.BytesAreLittleEndian := by
  intro w rest
  refine ⟨fun k hk => ?_, decodeBytes_bytesOfWord w rest⟩
  rw [getElem?_bytesOfWord w hk, field_eq_ofNat]

end Sys2Proof
end

section
/-! The command and response channel (20_memory.md R51, R53, R56, R57): a step performs the oldest action that waits, and
a run over waiting commands is their sequence, with the pairs in the host's record. -/

namespace Sys2Proof.Machine

/-! ### One action -/

/-- A step takes the oldest action off and performs it. -/
theorem step_of_pending {s : State} {a : HostAction} {rest : List HostAction} (h : s.pending = a :: rest) :
    step s = perform a { s with pending := rest } := by
  simp only [step, performNext, h]

/-- A word that decodes runs its command (R241). -/
theorem execute_of_decode {w : Word} {i : Instr} (h : decode w = .command i) (s : State) : execute w s = exec i s := by
  simp only [execute, h]

/-- A command's pair is its word and the RSP it leaves (R57). -/
theorem runCommand_of_execute {w : Word} {s t : State} (h : execute w s = .next t) :
    runCommand w s = .next (t.observe (.response w t.rsp)) := by
  simp only [runCommand, h]

/-- Settles O6: the action in front is the command, and exec of it completes. -/
theorem stepRunsTheDecodedCommand : Obligations.StepRunsTheDecodedCommand := by
  intro s w i rest hp hd
  obtain ⟨t, ht⟩ := exec_next i { s with pending := rest }
  have hx : execute w { s with pending := rest } = .next t := (execute_of_decode hd _).trans ht
  exact ⟨t, ht, (step_of_pending hp).trans (runCommand_of_execute hx)⟩

/-- Settles O10: the action in front is the read, which grows the record only. -/
theorem readingRspHasNoSideEffect : Obligations.ReadingRspHasNoSideEffect :=
  fun _ _ hp => step_of_pending hp

/-! ### A sequence of words (R277) -/

/-- A sequence completes where its first word and then the others do. -/
theorem issueAll_cons_eq_some {w : Word} {ws : List Word} {s t : State} {rs : List Word} :
    issueAll (w :: ws) s = some (rs, t)
      ↔ ∃ u rs', execute w s = .next u ∧ issueAll ws u = some (rs', t) ∧ rs = u.rsp :: rs' := by
  obtain ⟨u, hu⟩ := execute_next w s
  simp only [issueAll, hu]
  cases hi : issueAll ws u with
  | none => simp [hi]
  | some p => simp [hi, Prod.ext_iff, and_comm, eq_comm]

/-- Every sequence of words completes. -/
theorem issueAll_total (ws : List Word) (s : State) : ∃ rs t, issueAll ws s = some (rs, t) := by
  induction ws generalizing s with
  | nil => exact ⟨[], s, rfl⟩
  | cons w ws ih =>
    obtain ⟨u, hu⟩ := execute_next w s
    obtain ⟨rs, t, ht⟩ := ih u
    exact ⟨u.rsp :: rs, t, issueAll_cons_eq_some.2 ⟨u, rs, hu, ht, rfl⟩⟩

/-- One response for each word. -/
theorem length_of_issueAll {ws : List Word} {s t : State} {rs : List Word} (h : issueAll ws s = some (rs, t)) :
    rs.length = ws.length := by
  induction ws generalizing s rs with
  | nil => cases h; rfl
  | cons w ws ih =>
    obtain ⟨u, rs', -, ht, rfl⟩ := issueAll_cons_eq_some.1 h
    simp [ih ht]

/-- A command word leaves the waiting actions. -/
theorem execute_pending {w : Word} {s t : State} (h : execute w s = .next t) : t.pending = s.pending := by
  have hsame : execute w s = .next (t.withHost s.pending s.observed) := execute_withHost h s.pending s.observed
  rw [h] at hsame
  injection hsame with ht
  calc t.pending = (t.withHost s.pending s.observed).pending := congrArg State.pending ht
    _ = s.pending := rfl

/-- So does a sequence of them. -/
theorem issueAll_pending {ws : List Word} {s t : State} {rs : List Word} (h : issueAll ws s = some (rs, t)) :
    t.pending = s.pending := by
  induction ws generalizing s rs with
  | nil => cases h; rfl
  | cons w ws ih =>
    obtain ⟨u, rs', hu, ht, -⟩ := issueAll_cons_eq_some.1 h
    exact (ih ht).trans (execute_pending hu)

/-- A step over a waiting command word, with any record: the word's own effect, the word taken off, its pair added. -/
theorem step_command {w : Word} {s t : State} (h : execute w s = .next t) (rest : List HostAction)
    (o : List Observation) :
    step (s.withHost (.command w :: rest) o) = .next (t.withHost rest (.response w t.rsp :: o)) :=
  calc step (s.withHost (.command w :: rest) o) = runCommand w (s.withHost rest o) := rfl
    _ = .next (t.withHost rest (.response w t.rsp :: o)) := runCommand_of_execute (execute_withHost h rest o)

/-- A run over waiting command words is their sequence, the pairs added to the record in front, newest first (R57). -/
theorem run_commands {ws : List Word} {s t : State} {rs : List Word} (h : issueAll ws s = some (rs, t))
    (o : List Observation) :
    Host.Core.run Sys2Proof.core ws.length (s.withHost (ws.map .command) o)
      = .next (t.withHost [] ((List.zipWith Observation.response ws rs).reverse ++ o)) := by
  induction ws generalizing s rs o with
  | nil => cases h; rfl
  | cons w ws ih =>
    obtain ⟨u, rs', hu, ht, rfl⟩ := issueAll_cons_eq_some.1 h
    calc Host.Core.run Sys2Proof.core (ws.length + 1) (s.withHost (.command w :: ws.map .command) o)
        = Host.Core.run Sys2Proof.core ws.length (u.withHost (ws.map .command) (.response w u.rsp :: o)) :=
          run_succ _ _ _ (step_command hu _ o)
      _ = .next (t.withHost [] ((List.zipWith Observation.response ws rs').reverse ++ .response w u.rsp :: o)) :=
          ih ht _
      _ = _ := by simp

/-- Settles O13: the run is the sequence issued at the state with no action waiting, which leaves none waiting. -/
theorem runLogsResponsesInAcceptanceOrder : Obligations.RunLogsResponsesInAcceptanceOrder := by
  intro s ws hp
  obtain ⟨rs, t, h⟩ := issueAll_total ws { s with pending := [] }
  have hs : s = State.withHost { s with pending := [] } (ws.map .command) s.observed := by
    rw [← hp]; rfl
  have ht : t.pending = [] := issueAll_pending h
  refine ⟨rs, t, h, length_of_issueAll h, ?_⟩
  have hrun := run_commands h s.observed
  rwa [← hs, State.withHost, ← ht] at hrun

end Sys2Proof.Machine
end

section
/-! The memory-mapped binding (20_memory.md R52 to R55): one lemma for each thing an access inside the window does. -/

namespace Sys2Proof.Machine

section
variable (s : State) {block : Nat}

/-- The window holds the offsets 0 to 15 of the base (R52). -/
theorem busOffset?_window {c : Config} (hb : c.ecoreBlock = some block) {off : Nat} (ho : off < 16) :
    busOffset? c (16 * block + off) = some off := by
  simp [busOffset?, Config.ecoreBase, hb, ho]

/-- R55: four bytes at a multiple of 4, and nothing else, is supported. -/
theorem busSupported_iff {off bytes : Nat} : busSupported off bytes = true ↔ bytes = 4 ∧ off % 4 = 0 := by
  simp [busSupported]

theorem busRead_of_supported (hb : s.cfg.ecoreBlock = some block) {off bytes : Nat} (ho : off < 16)
    (h : busSupported off bytes = true) :
    busRead (16 * block + off) bytes s
      = .next (s.observe (.busData (16 * block + off) (bytesOfWord (busReadValue off s)))) := by
  simp only [busRead, busOffset?_window hb ho, h, if_true]

theorem busRead_of_not_supported (hb : s.cfg.ecoreBlock = some block) {off bytes : Nat} (ho : off < 16)
    (h : ¬ busSupported off bytes = true) : busRead (16 * block + off) bytes s = .refused .busAccessNotDefined := by
  simp only [busRead, busOffset?_window hb ho, if_neg h]

theorem busWrite_of_not_supported (hb : s.cfg.ecoreBlock = some block) {off : Nat} {data : List Byte} (ho : off < 16)
    (h : ¬ busSupported off data.length = true) :
    busWrite (16 * block + off) data s = .refused .busAccessNotDefined := by
  simp only [busWrite, busOffset?_window hb ho, if_neg h]

/-- A word written at the base runs as a command (R52, R54). -/
theorem busWrite_cmd (hb : s.cfg.ecoreBlock = some block) (w : Word) :
    busWrite (16 * block) (bytesOfWord w) s = runCommand w s := by
  have h0 : busOffset? s.cfg (16 * block) = some 0 := busOffset?_window hb (show 0 < 16 by decide)
  simp [busWrite, h0, bytesOfWord, busSupported]

/-- A supported write above the base is ignored (R53). -/
theorem busWrite_ignored (hb : s.cfg.ecoreBlock = some block) {off : Nat} {data : List Byte} (ho : off < 16)
    (h0 : off ≠ 0) (h : busSupported off data.length = true) : busWrite (16 * block + off) data s = .next s := by
  simp only [busWrite, busOffset?_window hb ho, h, if_true]
  split
  · exact absurd rfl h0
  · rfl

/-- RSP shows at offset 4, zero at every other one (R52). -/
theorem bytesOfWord_busReadValue (off : Nat) :
    bytesOfWord (busReadValue off s) = if off = 4 then bytesOfWord s.rsp else [0#8, 0#8, 0#8, 0#8] := by
  unfold busReadValue
  split <;> rfl

end

/-- Settles O53: both steps run the word at the state without the action in front. -/
theorem writingCmdExecutesTheWord : Obligations.WritingCmdExecutesTheWord := by
  intro s block w rest hb hp
  calc step s = busWrite (16 * block) (bytesOfWord w) { s with pending := rest } := step_of_pending hp
    _ = runCommand w { s with pending := rest } := busWrite_cmd { s with pending := rest } hb w
    _ = step { s with pending := .command w :: rest } := rfl

/-- Settles O54: the four offsets are supported ones; a read observes, and a write above the base is ignored. -/
theorem otherBusAccessesHaveNoEffect : Obligations.OtherBusAccessesHaveNoEffect := by
  intro s block off rest hb hoff
  have ho : off < 16 ∧ off % 4 = 0 := by
    simp only [List.mem_cons, List.not_mem_nil, or_false] at hoff
    omega
  obtain ⟨hlt, halign⟩ := ho
  have hsup : busSupported off 4 = true := busSupported_iff.2 ⟨rfl, halign⟩
  refine ⟨fun hp => ?read, fun b0 b1 b2 b3 h0 hp => ?write⟩
  case read =>
    rw [step_of_pending hp, ← bytesOfWord_busReadValue]
    exact busRead_of_supported { s with pending := rest } hb hlt hsup
  case write =>
    rw [step_of_pending hp]
    exact busWrite_ignored { s with pending := rest } (data := [b0, b1, b2, b3]) hb hlt h0 hsup

/-- Settles O55: inside the window, an access of another width or alignment is no supported one. -/
theorem undefinedBusAccessesAreRefused : Obligations.UndefinedBusAccessesAreRefused := by
  intro s block off bytes data rest hb ho
  have hns (n : Nat) (h : n ≠ 4 ∨ off % 4 ≠ 0) : ¬ busSupported off n = true := by
    rwa [busSupported_iff, not_and_or]
  refine ⟨fun hp h => ?read, fun hp h => ?write⟩
  case read =>
    rw [step_of_pending hp]
    exact busRead_of_not_supported { s with pending := rest } hb ho (hns _ h)
  case write =>
    rw [step_of_pending hp]
    exact busWrite_of_not_supported { s with pending := rest } hb ho (hns _ h)

end Sys2Proof.Machine
end

section
/-! The decoder and the encoder against the rows of the opcode map (30_encoding.md R71 to R73, R80, R81, R83): a row fixes
the bits under its mask, and the bits outside it are the operand fields of the command it builds. -/

namespace Sys2Proof

open Machine (opcodeRows)

/-! ### Fields and masks -/

theorem field_and (lsb n : Nat) (v w : Word) : field lsb n (v &&& w) = field lsb n v &&& field lsb n w := by
  ext i hi
  simp [field]

/-- A field put back at its place is the word under the field's mask. -/
theorem place_field (lsb n : Nat) (w : Word) : place lsb (field lsb n w) = w &&& place lsb (BitVec.allOnes n) := by
  apply BitVec.eq_of_getLsbD_eq
  intro i hi
  rw [BitVec.getLsbD_and, getLsbD_place, getLsbD_place, getLsbD_field]
  by_cases below : i < lsb
  · simp [below]
  · have hi' : lsb + (i - lsb) = i := by omega
    simp [below, hi, hi', Bool.and_comm]

/-- The opcode in plain arithmetic: the top four bits (R71). -/
theorem toNat_fieldOP (w : Word) : (fieldOP w).toNat = w.toNat / 2 ^ 28 := by
  have hw := w.isLt
  rw [fieldOP, field_eq_ofNat, BitVec.toNat_ofNat]
  omega

/-! ### The rows of the opcode map -/

/-- The mask of every row covers the opcode, and its match holds the row's own (R73). -/
theorem fieldOP_of_mem_opMap : ∀ row ∈ opMap, fieldOP row.mask = BitVec.allOnes 4 ∧ fieldOP row.pattern = row.op := by
  decide

/-- No two rows share an opcode: looking a row's opcode up finds that row. -/
theorem find?_op_of_mem_opMap : ∀ row ∈ opMap, opMap.find? (fun r => r.op == row.op) = some row := by
  simp [opMap]

/-- A word that matches a row has the row's opcode. -/
theorem fieldOP_of_match {row : OpRow} (hrow : row ∈ opMap) {w : Word} (hm : w &&& row.mask = row.pattern) :
    fieldOP w = row.op := by
  obtain ⟨hmask, hpattern⟩ := fieldOP_of_mem_opMap row hrow
  calc fieldOP w = fieldOP w &&& fieldOP row.mask := by rw [hmask, BitVec.and_allOnes]
    _ = fieldOP (w &&& row.mask) := (field_and 28 4 w row.mask).symm
    _ = row.op := by rw [hm, hpattern]

/-- All that decode accepts: a word that matches a row, as the command the row builds of it. -/
theorem decode_eq_command_iff {w : Word} {i : Instr} :
    decode w = .command i ↔ ∃ row ∈ opMap, w &&& row.mask = row.pattern ∧ row.build w = i := by
  constructor
  · intro h
    unfold decode at h
    split at h
    · cases h
    · rename_i row hfind
      split at h
      · rename_i hm
        injection h with hi
        exact ⟨row, List.mem_of_find?_eq_some hfind, hm, hi⟩
      · cases h
  · rintro ⟨row, hrow, hm, rfl⟩
    simp only [decode, fieldOP_of_match hrow hm, find?_op_of_mem_opMap row hrow, if_pos hm]

/-! ### Decoding what was encoded -/

/-- The row of the opcode map a command is encoded under. -/
def Instr.row : Instr → OpRow
  | .status => opMap[0]
  | .cfgRotor _ _ _ => opMap[1]
  | .cfgRefl _ => opMap[2]
  | .plugClear => opMap[3]
  | .plugPair _ _ => opMap[4]
  | .setPos _ _ _ => opMap[5]
  | .press _ => opMap[6]
  | .pressChar _ => opMap[7]
  | .getPos => opMap[8]
  | .reset => opMap[9]

theorem Instr.row_mem_opMap (i : Instr) : i.row ∈ opMap := by
  cases i <;> exact List.getElem_mem _

/-- The operand fields stand outside the mask, so the word matches its command's own row (Laws.EncodesItsRow says it
matches some row). -/
theorem encode_and_mask (i : Instr) : encode i &&& i.row.mask = i.row.pattern := by
  cases i with
  | status | plugClear | getPos | reset => rfl
  | cfgRotor | cfgRefl | plugPair | setPos | press | pressChar =>
    simp (disch := decide) only [encode, Instr.row, opMap, List.getElem_cons_zero, List.getElem_cons_succ, or_and_mask,
      place_and_mask]
    rfl

/-- Every operand field is read back from its place: the other fields and the opcode stand outside it (R71). -/
theorem build_encode (i : Instr) : i.row.build (encode i) = i := by
  cases i with
  | status | plugClear | getPos | reset => rfl
  | cfgRotor | cfgRefl | plugPair | setPos | press | pressChar =>
    simp (disch := omega) only [encode, Instr.row, opMap, List.getElem_cons_zero, List.getElem_cons_succ, fieldSLOT,
      fieldTYPE, fieldFA, fieldFB, fieldFC, fieldCHAR, field_or, field_place_same, field_place_below, field_place_above]
    simp [field]

theorem decode_encode (i : Instr) : decode (encode i) = .command i :=
  decode_eq_command_iff.2 ⟨i.row, i.row_mem_opMap, encode_and_mask i, build_encode i⟩

/-- Settles O1: the word of a command matches its row, which reads every operand back; its four bytes are that word. -/
theorem decodeInvertsEncode : Obligations.DecodeInvertsEncode := by
  intro i rest
  refine ⟨decode_encode i, ?_⟩
  rw [encodeBytes, decodeBytes_bytesOfWord, decode_encode]

/-! ### Encoding what was decoded -/

/-- The command a row builds of a word takes over every bit outside the row's mask. -/
theorem encode_build {row : OpRow} (hrow : row ∈ opMap) (w : Word) :
    encode (row.build w) = row.pattern ||| (w &&& ~~~row.mask) := by
  simp only [opMap, List.mem_cons, List.not_mem_nil, or_false] at hrow
  rcases hrow with rfl | rfl | rfl | rfl | rfl | rfl | rfl | rfl | rfl | rfl
  -- the placed fields are the word under one mask, the union of theirs
  all_goals simp only [encode, fieldSLOT, fieldTYPE, fieldFA, fieldFB, fieldFC, fieldCHAR, place_field, BitVec.or_assoc,
    ← BitVec.and_or_distrib_left]
  all_goals simp [place]

/-- Settles O2: a match fixes the bits under the mask, and the command keeps the bits outside it. -/
theorem encodeInvertsDecode : Obligations.EncodeInvertsDecode := by
  intro w i hd
  obtain ⟨row, hrow, hm, rfl⟩ := decode_eq_command_iff.1 hd
  calc encode (row.build w) = w &&& row.mask ||| w &&& ~~~row.mask := by rw [encode_build hrow, hm]
    _ = w := by rw [← BitVec.and_or_distrib_left, BitVec.or_not_self, BitVec.and_allOnes]

/-! ### The words decode accepts, and the words it refuses -/

/-- The rows written out in Safety.lean are those of the decoder's map. -/
theorem opcodeRows_eq_map_opMap : opcodeRows = opMap.map fun row => (row.op.toNat, row.pattern, row.mask) := rfl

/-- Settles O3: the rows decode looks words up in are the ten of the opcode map. -/
theorem decodeAcceptsTheOpcodeRows : Obligations.DecodeAcceptsTheOpcodeRows := by
  intro w
  simp [decode_eq_command_iff, opcodeRows_eq_map_opMap]

/-- Settles O4: ten closed words, which the decoder runs on. -/
theorem exampleWordsDecode : Obligations.ExampleWordsDecode := by
  unfold Obligations.ExampleWordsDecode
  decide

/-- A word that matches a row has the row's opcode in its top four bits. -/
theorem opcode_of_match : ∀ row ∈ opcodeRows, ∀ w : Word, w &&& row.2.2 = row.2.1 → w.toNat / 2 ^ 28 = row.1 := by
  simp only [opcodeRows_eq_map_opMap, List.forall_mem_map]
  intro row hrow w hm
  rw [← toNat_fieldOP, fieldOP_of_match hrow hm]

/-- Two rows of one opcode are one row. -/
theorem opcodeRows_inj : ∀ row ∈ opcodeRows, ∀ row' ∈ opcodeRows, row.1 = row'.1 → row = row' := by
  decide

/-- No row has one of the opcodes 0x9 to 0xE (R80). -/
theorem opcodeRows_not_reserved : ∀ row ∈ opcodeRows, ¬ (9 ≤ row.1 ∧ row.1 ≤ 14) := by
  decide

end Sys2Proof
end

section
/-! Words that are no command (30_encoding.md R80, R81): E_ILLEGAL in every phase. -/

namespace Sys2Proof.Machine

/-- A word that matches no row raises E_ILLEGAL, which writes RSP only (R245). -/
theorem execute_of_no_match {w : Word} (h : ∀ row ∈ opcodeRows, w &&& row.2.2 ≠ row.2.1) {s : State} {p : Phase}
    (hp : s.phase = p) : execute w s = .next (s.withRsp (errorWord .illegal p)) := by
  subst hp
  obtain ⟨t, ht⟩ := execute_next w s
  rcases execute_cases ht with ⟨-, rfl⟩ | ⟨i, hi, -⟩
  · exact ht
  · obtain ⟨row, hrow, hm⟩ := (decodeAcceptsTheOpcodeRows w).1 ⟨i, hi⟩
    exact absurd hm (h row hrow)

/-- Settles O8: a word can match only the row of its own opcode, and such a word does not. -/
theorem illegalWordsAnswerIllegal : Obligations.IllegalWordsAnswerIllegal := by
  intro s w hw
  have hnone : ∀ row ∈ opcodeRows, w &&& row.2.2 ≠ row.2.1 := by
    intro row hrow hm
    have hop := opcode_of_match row hrow w hm
    rcases hw with hreserved | ⟨own, hown, hopOwn, hbits⟩
    · exact opcodeRows_not_reserved row hrow (hop ▸ hreserved)
    · have heq := opcodeRows_inj own hown row hrow (hopOwn.symm.trans hop)
      exact hbits (heq ▸ hm)
  exact ⟨execute_of_no_match hnone, execute_of_no_match hnone, execute_of_no_match hnone⟩

end Sys2Proof.Machine
end

section
/-! The assembler (30_encoding.md R89, R90): its operands are symbols, slots and codes already, so every command it can
produce has its operands in range. -/

namespace Sys2Proof.Machine

/-! ### Operands -/

@[simp] theorem symbolField_fieldOfSymbol (x : Sym26) : symbolField (fieldOfSymbol x) = true := by
  simp [symbolField]

@[simp] theorem slotField_slotCode (i : SlotId) : slotField (slotCode i) = true := by
  cases i <;> rfl

@[simp] theorem wellFormed_rotorInstr (i : SlotId) (t : RotorType) (g : Sym26) :
    (rotorInstr i t g).wellFormed = true := by
  simp [rotorInstr, Instr.wellFormed]

@[simp] theorem wellFormed_reflInstr (u : ReflCode) : (reflInstr u).wellFormed = true := by
  revert u; decide

@[simp] theorem wellFormed_plugInstr (p : Sym26 × Sym26) : (plugInstr p).wellFormed = true := by
  simp [plugInstr, Instr.wellFormed]

@[simp] theorem wellFormed_setPosInstr (l m r : Sym26) : (setPosInstr l m r).wellFormed = true := by
  simp [setPosInstr, Instr.wellFormed]

@[simp] theorem wellFormed_pressInstr (x : Sym26) : (pressInstr x).wellFormed = true := by
  simp [pressInstr, Instr.wellFormed]

/-! ### Lines and programs -/

/-- Every command of a line, and of what a pseudo-instruction expands to, has its operands in range. -/
theorem AsmLine.wellFormed_instrs (line : AsmLine) : ∀ i ∈ line.instrs, i.wellFormed = true := by
  cases line with
  | status | plugClr | pressC | getPos | reset | nop => simp [AsmLine.instrs, Instr.wellFormed]
  | rotor | refl | plug | setPos | press => simp [AsmLine.instrs]
  | plugs pairs => exact List.forall_mem_map.2 fun p _ => wellFormed_plugInstr p
  | key letters => exact List.forall_mem_map.2 fun x _ => wellFormed_pressInstr x
  | text chars => exact List.forall_mem_map.2 fun _ _ => rfl
  | machine t0 t1 t2 g0 g1 g2 u pairs l m r =>
    have hreset : Instr.reset.wellFormed = true := rfl
    simp only [AsmLine.instrs, List.forall_mem_append, List.forall_mem_cons, List.forall_mem_map]
    simp [hreset]

/-- Everything assemble can produce: the words of the commands of the lines it reads. -/
theorem mem_of_assemble {lines : List (List Char)} {ws : List Word} (h : assemble lines = some ws) {w : Word}
    (hw : w ∈ ws) : ∃ line : AsmLine, ∃ i ∈ line.instrs, encode i = w := by
  induction lines generalizing ws with
  | nil =>
    injection h with h
    subst h
    cases hw
  | cons text rest ih =>
    unfold assemble at h
    split at h
    · rename_i ls ws' _ hrest
      injection h with h
      subst h
      rcases List.mem_append.1 hw with hw | hw
      · obtain ⟨i, hi, rfl⟩ := List.mem_map.1 hw
        obtain ⟨line, -, hi⟩ := List.mem_flatMap.1 hi
        exact ⟨line, i, hi, rfl⟩
      · exact ih hrest hw
    · cases h

/-- Settles O57: the word is that of a well-formed command, and decoding gives the command back. -/
theorem assembledWordsAreWellFormed : Obligations.AssembledWordsAreWellFormed := by
  intro lines ws h w hw
  obtain ⟨line, i, hi, rfl⟩ := mem_of_assemble h hw
  exact ⟨i, decode_encode i, line.wellFormed_instrs i hi⟩

end Sys2Proof.Machine
end

section
/-! The rotor unit (40_rotor.md R102, R103, R106, R107): its two substitutions are inverse to each other for every lawful
catalog, and depend on ring and position by their difference alone. -/

namespace Sys2Proof.Machine

/-! ### Sums and differences of symbols in plain arithmetic (00_scope.md R10) -/

theorem ofNat_val_add_shift (x p g : Sym26) : Fin.ofNat 26 (x.val + (p.val + 26 - g.val) % 26) = x + (p - g) := by
  apply Fin.ext
  simp only [Fin.val_ofNat, Fin.val_add, Fin.val_sub]
  omega

theorem ofNat_val_sub_shift (x p g : Sym26) : Fin.ofNat 26 (x.val + 26 - (p.val + 26 - g.val) % 26) = x - (p - g) := by
  apply Fin.ext
  simp only [Fin.val_ofNat, Fin.val_sub]
  omega

/-! ### The two substitutions -/

theorem romW_rotorBwd_add (c : Config) (t : RotorType) (g p x : Sym26) :
    romW c t (rotorBwd c t g p x + (p - g)) = x + (p - g) := by
  rw [rotorBwd_eq, sub_add_cancel, romW_romWI]

theorem rotorBwd_leftInverse_rotorFwd (c : Config) (t : RotorType) (g p : Sym26) :
    Function.LeftInverse (rotorBwd c t g p) (rotorFwd c t g p) := by
  intro x
  rw [rotorBwd_eq, rotorFwd_eq, sub_add_cancel, romWI_romW, add_sub_cancel_right]

theorem rotorFwd_leftInverse_rotorBwd (c : Config) (t : RotorType) (g p : Sym26) :
    Function.LeftInverse (rotorFwd c t g p) (rotorBwd c t g p) := by
  intro x
  rw [rotorFwd_eq, romW_rotorBwd_add, add_sub_cancel_right]

/-- Settles O26: the two maps are left inverses of each other. -/
theorem rotorRoundTrip : Obligations.RotorRoundTrip :=
  fun c t g p x => ⟨rotorBwd_leftInverse_rotorFwd c t g p x, rotorFwd_leftInverse_rotorBwd c t g p x⟩

/-- Settles O25: the formulas are those of the wiring at a shifted symbol, and a map with an inverse on both sides is
bijective. -/
theorem rotorSubstitutionFormulas : Obligations.RotorSubstitutionFormulas := by
  intro c t g p
  have hbwd := rotorBwd_leftInverse_rotorFwd c t g p
  have hfwd := rotorFwd_leftInverse_rotorBwd c t g p
  refine ⟨fun x => ⟨?_, ?_⟩, ⟨hbwd.injective, hfwd.surjective⟩, ⟨hfwd.injective, hbwd.surjective⟩⟩
  · simp only [ofNat_val_add_shift, ofNat_val_sub_shift]
    exact rotorFwd_eq c t g p x
  · simp only [ofNat_val_add_shift]
    exact romW_rotorBwd_add c t g p x

/-- Settles O27: ring and position enter the substitutions by their difference alone, and the notch test reads the type
and the position (R104). -/
theorem ringActsAsAPositionShift : Obligations.RingActsAsAPositionShift := by
  intro c t g p x
  refine ⟨?_, ?_, fun _ => rfl⟩
  · rw [rotorFwd_eq, rotorFwd_eq, mod26_sub, sub_zero]
  · rw [rotorBwd_eq, rotorBwd_eq, mod26_sub, sub_zero]

end Sys2Proof.Machine
end

section
/-! The reflector and the plugboard (41_reflector_plugboard.md R121, R126). The pair count is half the number of plugged
letters; a pair of unplugged letters adds two of them, and 13 pairs leave none unplugged. -/

namespace Sys2Proof.Machine

/-- Settles O28: the law a reflector entry carries. -/
theorem reflectorIsAFixedPointFreeInvolution : Obligations.ReflectorIsAFixedPointFreeInvolution :=
  fun c u x => ⟨romU_romU c u x, romU_ne c u x⟩

/-! ### The plugged letters -/

/-- The letters that the plugboard takes to another one (R26). -/
def plugged (plug : Vector Sym26 26) : Finset Sym26 := Finset.univ.filter fun k => swap plug k ≠ k

theorem mem_plugged {plug : Vector Sym26 26} {k : Sym26} : k ∈ plugged plug ↔ swap plug k ≠ k := by simp [plugged]

theorem pairCount_eq_card_plugged (plug : Vector Sym26 26) : pairCount plug = (plugged plug).card / 2 := by
  have hset : plugged plug = ((List.finRange 26).filter fun k => swap plug k != k).toFinset := by
    ext k
    simp [mem_plugged]
  rw [pairCount, List.countP_eq_length_filter, hset, List.toFinset_card_of_nodup ((List.nodup_finRange 26).filter _)]

theorem card_plugged_le (plug : Vector Sym26 26) : (plugged plug).card ≤ 26 := card_finset_fin_le _

theorem pairCount_le (plug : Vector Sym26 26) : pairCount plug ≤ 13 := by
  have hcard := card_plugged_le plug
  rw [pairCount_eq_card_plugged]
  omega

/-- A pair of two letters plugs these two besides those already plugged (R183). -/
theorem plugged_addPair (plug : Vector Sym26 26) {a b : Sym26} (hab : a ≠ b) :
    plugged (addPair plug a b) = insert a (insert b (plugged plug)) := by
  ext k
  simp only [Finset.mem_insert, mem_plugged, swap_addPair]
  by_cases hkb : k = b
  · simp [hkb, hab]
  · by_cases hka : k = a
    · simp [hka, hab, hab.symm]
    · simp [hka, hkb]

/-- A pair of two unplugged letters counts one more. -/
theorem pairCount_addPair {plug : Vector Sym26 26} {a b : Sym26} (hab : a ≠ b) (ha : swap plug a = a)
    (hb : swap plug b = b) : pairCount (addPair plug a b) = pairCount plug + 1 := by
  have hb' : b ∉ plugged plug := fun h => mem_plugged.1 h hb
  have ha' : a ∉ insert b (plugged plug) := by simp [mem_plugged, hab, ha]
  rw [pairCount_eq_card_plugged, pairCount_eq_card_plugged, plugged_addPair plug hab, Finset.card_insert_of_notMem ha',
    Finset.card_insert_of_notMem hb']
  omega

/-- With 13 pairs every letter is plugged. -/
theorem swap_ne_of_pairCount_eq {plug : Vector Sym26 26} (h : pairCount plug = 13) (k : Sym26) : swap plug k ≠ k := by
  have hcard : (plugged plug).card = Fintype.card Sym26 := by
    have hle := card_plugged_le plug
    rw [pairCount_eq_card_plugged] at h
    simp only [Sym26, Fintype.card_fin]
    omega
  exact mem_plugged.1 ((Finset.card_eq_iff_eq_univ _).1 hcard ▸ Finset.mem_univ k)

/-! ### PLUG_PAIR -/

/-- A PLUG_PAIR of a plugged letter raises E_PLUG (R183). -/
theorem exec_plugPair_of_plugged {f g : Field5} {s : State} {a b : Sym26} (hp : s.phase = .config)
    (ha : symbolOf? f = some a) (hb : symbolOf? g = some b) (hplugged : swap s.plug a ≠ a ∨ swap s.plug b ≠ b) :
    exec (.plugPair f g) s = .next (s.withRsp 0x40000000#32) := by
  have hword : errorWord .plug .config = 0x40000000#32 := by decide
  have hraise : raiseErr .plug s = s.withRsp 0x40000000#32 := by rw [raiseErr_of_ne _ _ (by decide), hp, hword]
  simp [exec, execPlugPair, configCommand, afterPrelude, hp, ha, hb, hplugged, hraise]

/-- Settles O52: an accepted pair plugs two letters, and with 13 pairs none is left to plug. Counting plugged letters takes
no involution. -/
theorem atMostThirteenPairs : Obligations.AtMostThirteenPairs := by
  intro s _ hp
  refine ⟨pairCount_le _, fun f g t h hok => ?_, fun hfull a b => ?_⟩
  · cases exec_effect h with
    | error _ e => exact absurd ((rspERR_errorWord e s.phase).symm.trans hok) (errCode_ne_ok e)
    | plugPair _ _ a b _ _ _ hab ha hb => exact pairCount_addPair hab ha hb
  · exact exec_plugPair_of_plugged hp (symbolOf?_fieldOfSymbol a) (symbolOf?_fieldOfSymbol b)
      (.inl (swap_ne_of_pairCount_eq hfull a))

end Sys2Proof.Machine
end

section
/-! The step controller (42_step_controller.md R140 to R149): its rules one by one, what a key press takes from it, and
that it does not read the type in the left slot. -/

namespace Sys2Proof.Machine

/-! ### The signals it reads and the step it makes -/

/-- The notch test by the catalog (R104). -/
theorem notchSignal_iff {c : Config} {v : Slot} : notchSignal c v = true ↔ v.pos ∈ c.rotors[v.type].notches :=
  List.contains_iff_mem

/-- One step of a slot (R105). -/
theorem stepSlot_eq (s : State) (i : SlotId) : s.stepSlot i = s.withPos i ((s.slot i).pos + 1) := by
  rw [State.stepSlot, rotorStep_eq]

theorem ofNat_val_succ (p : Sym26) : Fin.ofNat 26 (p.val + 1) = p + 1 := (Fin.add_ofNat p 1).symm

theorem ofNat_val_add_two (p : Sym26) : Fin.ofNat 26 (p.val + 2) = p + 1 + 1 := by
  rw [add_assoc]
  exact (Fin.add_ofNat p 2).symm

/-- Settles O22: the closed form of R151, with the signals read off the catalog. -/
theorem stepControllerMovesTheRotors : Obligations.StepControllerMovesTheRotors := by
  intro s
  simp only [stepController_eq, notchSignal_iff, ofNat_val_succ]

/-! ### Its rules -/

/-- Rule 1 with rule 3 (R141, R143). -/
theorem stepController_of_middle_atNotch {s : State} (hm : s.middle.pos ∈ s.cfg.rotors[s.middle.type].notches) :
    stepController s = ((s.stepSlot .middle).stepSlot .left).stepSlot .right := by
  simp [stepController, notchSignal_iff.2 hm]

/-- Rule 2 with rule 3 (R142, R143). -/
theorem stepController_of_right_atNotch {s : State} (hm : s.middle.pos ∉ s.cfg.rotors[s.middle.type].notches)
    (hr : s.right.pos ∈ s.cfg.rotors[s.right.type].notches) :
    stepController s = (s.stepSlot .middle).stepSlot .right := by
  simp [stepController, mt notchSignal_iff.1 hm, notchSignal_iff.2 hr]

/-- The type in the left slot is carried along and not read (R144). -/
theorem stepController_left_type (s : State) (other : RotorType) :
    stepController { s with left := { s.left with type := other } } =
      { stepController s with left := { (stepController s).left with type := other } } := by
  simp only [stepController_eq]

/-! ### What a key press takes from it -/

@[simp] theorem keyPress_left (x : Sym26) (s : State) : (keyPress x s).left = (stepController s).left := rfl
@[simp] theorem keyPress_middle (x : Sym26) (s : State) : (keyPress x s).middle = (stepController s).middle := rfl
@[simp] theorem keyPress_right (x : Sym26) (s : State) : (keyPress x s).right = (stepController s).right := rfl
@[simp] theorem keyPress_cfg (x : Sym26) (s : State) : (keyPress x s).cfg = s.cfg := stepController_cfg s

/-- Settles O24: both key presses move the rotors as the step controller does, which carries the left type along
unread. -/
theorem leftNotchHasNoEffect : Obligations.LeftNotchHasNoEffect := by
  intro s other x hp
  refine ⟨_, _, exec_press hp (symbolOf?_fieldOfSymbol x), exec_press hp (symbolOf?_fieldOfSymbol x), ?_⟩
  simp only [keyPress_left, keyPress_middle, keyPress_right, stepController_left_type, and_self]

/-- Settles O23: the first key press follows rule 2 and takes the middle rotor onto its notch, so the second follows
rule 1. -/
theorem doubleStepping : Obligations.DoubleStepping := by
  unfold Obligations.DoubleStepping
  simp only [ofNat_val_succ, ofNat_val_add_two]
  intro s x y hp hm hr hnext
  have hfirst : stepController s = (s.stepSlot .middle).stepSlot .right := stepController_of_right_atNotch hm hr
  have honto : (keyPress x s).middle.pos ∈ (keyPress x s).cfg.rotors[(keyPress x s).middle.type].notches := by
    simpa [hfirst, stepSlot_eq] using hnext
  have hsecond := stepController_of_middle_atNotch honto
  refine ⟨_, _, exec_press hp (symbolOf?_fieldOfSymbol x),
    exec_press ((keyPress_phase x s).trans hp) (symbolOf?_fieldOfSymbol y), ?_⟩
  simp [hsecond, hfirst, stepSlot_eq]

end Sys2Proof.Machine
end

section
/-! The character pipeline (43_pipeline.md R160, R162): its stages, and why at a fixed state it is a cipher without
fixed points: the two passes through the rotors are inverse to each other (R106), with a fixed-point-free involution, the
reflector, between them and an involution, the plugboard, around them. -/

namespace Sys2Proof.Machine

/-- Settles O29: the pipeline is its nine assignments. -/
theorem pipelineStages : Obligations.PipelineStages := by
  rintro s x _ _ _ _ _ _ _ _ _ rfl rfl rfl rfl rfl rfl rfl rfl rfl
  rfl

/-! ### The two passes through the rotors -/

/-- The way in through the three rotors, right to left (R160, stage 2; F of R162). -/
def rotorsIn (s : State) : Sym26 → Sym26 := s.left.fwd s.cfg ∘ s.middle.fwd s.cfg ∘ s.right.fwd s.cfg

/-- The way out through the three rotors, left to right (R160, stage 4). -/
def rotorsOut (s : State) : Sym26 → Sym26 := s.right.bwd s.cfg ∘ s.middle.bwd s.cfg ∘ s.left.bwd s.cfg

/-- The pipeline as R162 writes it. -/
theorem pipeline_eq (s : State) (x : Sym26) :
    pipeline s x = swap s.plug (rotorsOut s (romU s.cfg s.refl.id (rotorsIn s (swap s.plug x)))) := rfl

theorem Slot.bwd_leftInverse_fwd (c : Config) (v : Slot) : Function.LeftInverse (v.bwd c) (v.fwd c) :=
  rotorBwd_leftInverse_rotorFwd c v.type v.ring v.pos

theorem Slot.fwd_leftInverse_bwd (c : Config) (v : Slot) : Function.LeftInverse (v.fwd c) (v.bwd c) :=
  rotorFwd_leftInverse_rotorBwd c v.type v.ring v.pos

theorem rotorsOut_leftInverse_rotorsIn (s : State) : Function.LeftInverse (rotorsOut s) (rotorsIn s) :=
  ((s.left.bwd_leftInverse_fwd s.cfg).comp (s.middle.bwd_leftInverse_fwd s.cfg)).comp
    (s.right.bwd_leftInverse_fwd s.cfg)

theorem rotorsIn_leftInverse_rotorsOut (s : State) : Function.LeftInverse (rotorsIn s) (rotorsOut s) :=
  ((s.right.fwd_leftInverse_bwd s.cfg).comp (s.middle.fwd_leftInverse_bwd s.cfg)).comp
    (s.left.fwd_leftInverse_bwd s.cfg)

/-! ### The cipher at a fixed state -/

theorem pipeline_involutive {s : State} (h : PlugInvolution s.plug) : Function.Involutive (pipeline s) := by
  intro x
  rw [pipeline_eq, pipeline_eq, h, rotorsIn_leftInverse_rotorsOut, romU_romU, rotorsOut_leftInverse_rotorsIn, h]

/-- A letter enciphered to itself would be a fixed point of the reflector. -/
theorem pipeline_ne {s : State} (h : PlugInvolution s.plug) (x : Sym26) : pipeline s x ≠ x := by
  intro hx
  have hout : rotorsOut s (romU s.cfg s.refl.id (rotorsIn s (swap s.plug x))) = swap s.plug x :=
    calc rotorsOut s (romU s.cfg s.refl.id (rotorsIn s (swap s.plug x))) = swap s.plug (pipeline s x) := (h _).symm
      _ = swap s.plug x := by rw [hx]
  apply romU_ne s.cfg s.refl.id (rotorsIn s (swap s.plug x))
  calc romU s.cfg s.refl.id (rotorsIn s (swap s.plug x))
      = rotorsIn s (rotorsOut s (romU s.cfg s.refl.id (rotorsIn s (swap s.plug x)))) :=
        (rotorsIn_leftInverse_rotorsOut s _).symm
    _ = rotorsIn s (swap s.plug x) := by rw [hout]

/-- Settles O30: an involution is bijective. -/
theorem fixedStateCipher : Obligations.FixedStateCipher :=
  fun _ h => ⟨(pipeline_involutive h).bijective, fun x => ⟨pipeline_involutive h x, pipeline_ne h x⟩⟩

end Sys2Proof.Machine
end

section
/-! Sequences of key presses (43_pipeline.md R163, R164). RSP takes no part in them, and the states they pass through do
not depend on the letters pressed: so the letters put out are a function of the state before the first press, and where
the plugboard is an involution that function undoes itself. -/

namespace Sys2Proof.Machine

/-! ### The words of the key commands -/

/-- A PRESS word is the encoding of its command (R72). -/
theorem pressWord_eq_encode (x : Sym26) : pressWord x = encode (.press (fieldOfSymbol x)) := by
  revert x; decide

/-- A PRESS_CHAR word is the encoding of its command (R72). -/
theorem pressCharWord_eq_encode (c : Byte) : pressCharWord c = encode (.pressChar c) := by
  simp [pressCharWord, encode, place, BitVec.ofNat_toNat]

theorem execute_pressWord {s : State} (hp : s.phase = .ready) (x : Sym26) :
    execute (pressWord x) s = .next (keyPress x s) := by
  rw [pressWord_eq_encode, execute_of_decode (decode_encode _), exec_press hp (symbolOf?_fieldOfSymbol x)]

/-- A non-letter is skipped (R201). -/
theorem exec_pressChar_of_nonletter {s : State} (hp : s.phase = .ready) {c : Byte} (hc : letterOf? c = none) :
    exec (.pressChar c) s = .next (respond s) := by
  simp [exec, execPressChar, readyCommand, afterPrelude, hp, hc]

theorem execute_pressCharWord_of_nonletter {s : State} (hp : s.phase = .ready) {c : Byte} (hc : letterOf? c = none) :
    execute (pressCharWord c) s = .next (respond s) := by
  rw [pressCharWord_eq_encode, execute_of_decode (decode_encode _), exec_pressChar_of_nonletter hp hc]

/-! ### What a sequence of presses puts out, and the state it leaves -/

/-- The response to a key press that puts out y (R84, R200). -/
def keyResponse (y : Sym26) : Word := responseWord okCode .ready true (capitalOf y) 0#5 0#5 (fieldOfSymbol y)

/-- The letters put out for a sequence of letters: each enciphered at the state after its own step (R161). -/
def encipher : State → List Sym26 → List Sym26
  | _, [] => []
  | s, x :: xs => pipeline (stepController s) x :: encipher (stepController s) xs

/-- One key press, whatever RSP was before it: a step, and the response to the letter put out. -/
theorem keyPress_withRsp {s : State} (hp : s.phase = .ready) (r : Word) (x : Sym26) :
    keyPress x (s.withRsp r) = (stepController s).withRsp (keyResponse (pipeline (stepController s) x)) := by
  simp [keyPress_eq, keyResponse, hp]

/-- PRESS words from a READY state, whatever RSP: the responses to the letters put out, and as many steps as words. -/
theorem issueAll_pressWord {s : State} (hp : s.phase = .ready) (r : Word) (xs : List Sym26) :
    ∃ w, issueAll (xs.map pressWord) (s.withRsp r)
      = some ((encipher s xs).map keyResponse, (stepController^[xs.length] s).withRsp w) := by
  induction xs generalizing s r with
  | nil => exact ⟨r, rfl⟩
  | cons x xs ih =>
    obtain ⟨w, hw⟩ := ih ((stepController_phase s).trans hp) (keyResponse (pipeline (stepController s) x))
    have hx : execute (pressWord x) (s.withRsp r)
        = .next ((stepController s).withRsp (keyResponse (pipeline (stepController s) x))) := by
      rw [execute_pressWord (s := s.withRsp r) hp, keyPress_withRsp hp]
    exact ⟨w, issueAll_cons_eq_some.2 ⟨_, _, hx, hw, rfl⟩⟩

theorem map_rspD0_keyResponse (ys : List Sym26) : (ys.map keyResponse).map rspD0 = ys.map fieldOfSymbol := by
  rw [List.map_map]
  exact List.map_congr_left fun y _ => rspD0_keyResponse y

/-- From one state, what is put out for the letters put out is the letters (R163). -/
theorem encipher_encipher {s : State} (h : PlugInvolution s.plug) (xs : List Sym26) :
    encipher s (encipher s xs) = xs := by
  induction xs generalizing s with
  | nil => rfl
  | cons x xs ih =>
    have hplug : PlugInvolution (stepController s).plug := by rwa [stepController_plug]
    rw [encipher, encipher, pipeline_involutive hplug, ih hplug]

/-- Settles O31: both machines pass through the same states, and enciphering twice gives the letters back. -/
theorem encryptionEqualsDecryption : Obligations.EncryptionEqualsDecryption := by
  intro s r letters hp h
  obtain ⟨w, hfirst⟩ := issueAll_pressWord hp s.rsp letters
  obtain ⟨w', hsecond⟩ := issueAll_pressWord hp r (encipher s letters)
  refine ⟨_, _, encipher s letters, _, _, hfirst, (map_rspD0_keyResponse _).symm, hsecond, ?_⟩
  rw [map_rspD0_keyResponse, encipher_encipher h]

/-- Settles O32: the state left is as many steps from the first as there are letters, whatever they are, but for RSP; a
skipped character writes RSP only. -/
theorem steppingIgnoresTheInput : Obligations.SteppingIgnoresTheInput := by
  intro s xs ys hp hlen
  obtain ⟨w, hx⟩ := issueAll_pressWord hp s.rsp xs
  obtain ⟨w', hy⟩ := issueAll_pressWord hp s.rsp ys
  rw [← hlen] at hy
  exact ⟨⟨_, _, _, _, hx, hy, rfl⟩, fun c hc => ⟨_, execute_pressCharWord_of_nonletter hp hc, rfl⟩⟩

end Sys2Proof.Machine
end

section
/-! The configuration commands one by one (44_config_commands.md R180 to R186): what the preludes answer in each phase, what
each command answers where one of its own checks fails, and from these its meaning. -/

namespace Sys2Proof.Machine

/-! ### Errors and preludes, phase by phase -/

section
variable {s : State}

/-- An error other than E_MISUSE, at a known phase, by the word it answers. -/
theorem raiseErr_eq_withRsp {e : ErrCode} {p : Phase} {w : Word} (hp : s.phase = p) (he : e ≠ .misuse)
    (hw : errorWord e p = w) : raiseErr e s = s.withRsp w := by
  rw [raiseErr_of_ne e s he, hp, hw]

/-- A command that passes the prelude is answered with E_FAULT in FAULT (R241). -/
theorem afterPrelude_of_fault (hp : s.phase = .fault) (body : State → State) :
    afterPrelude s body = .next (s.withRsp 0x98000000#32) := by
  rw [afterPrelude, if_pos hp]
  exact congrArg _ (raiseErr_eq_withRsp hp (by decide) (by decide))

theorem afterPrelude_of_ne_fault (hp : s.phase ≠ .fault) (body : State → State) :
    afterPrelude s body = .next (body s) := by
  rw [afterPrelude, if_neg hp]

theorem configCommand_of_fault (hp : s.phase = .fault) (body : State → State) :
    configCommand s body = .next (s.withRsp 0x98000000#32) :=
  afterPrelude_of_fault hp _

/-- READY locks the configuration (R184). -/
theorem configCommand_of_ready (hp : s.phase = .ready) (body : State → State) :
    configCommand s body = .next (s.withRsp 0x54000000#32) := by
  rw [configCommand, afterPrelude_of_ne_fault (by simp [hp]), if_pos hp]
  exact congrArg _ (raiseErr_eq_withRsp hp (by decide) (by decide))

theorem configCommand_of_config (hp : s.phase = .config) (body : State → State) :
    configCommand s body = .next (body s) := by
  rw [configCommand, afterPrelude_of_ne_fault (by simp [hp]), if_neg (by simp [hp])]

variable {i : Instr} (hi : isConfigCommand i = true)
include hi

theorem exec_config_of_fault (hp : s.phase = .fault) : exec i s = .next (s.withRsp 0x98000000#32) := by
  cases i with
  | cfgRotor => rw [exec, execCfgRotor, configCommand_of_fault hp]
  | cfgRefl => rw [exec, execCfgRefl, configCommand_of_fault hp]
  | plugClear => rw [exec, execPlugClear, configCommand_of_fault hp]
  | plugPair => rw [exec, execPlugPair, configCommand_of_fault hp]
  | _ => cases hi

theorem exec_config_of_ready (hp : s.phase = .ready) : exec i s = .next (s.withRsp 0x54000000#32) := by
  cases i with
  | cfgRotor => rw [exec, execCfgRotor, configCommand_of_ready hp]
  | cfgRefl => rw [exec, execCfgRefl, configCommand_of_ready hp]
  | plugClear => rw [exec, execPlugClear, configCommand_of_ready hp]
  | plugPair => rw [exec, execPlugPair, configCommand_of_ready hp]
  | _ => cases hi

end

/-! ### What a successful configuration command writes -/

/-- What a configuration command writes once its operands are read. -/
inductive ConfigWrite where
  | slot (i : SlotId) (type : RotorType) (ring : Sym26)
  | refl (code : ReflCode)
  | clear
  | pair (a b : Sym26)

/-- A command and what it writes: none for operands out of range (R74 to R78). -/
inductive Writes : Instr → ConfigWrite → Prop where
  | cfgRotor {c : BitVec 2} {f : Field5} {i : SlotId} {g : Sym26} (t : BitVec 3) (hi : slotOf? c = some i)
      (hg : symbolOf? f = some g) : Writes (.cfgRotor c t f) (.slot i (rotorTypeOf t) g)
  | cfgRefl {f : Field5} {u : ReflCode} (hu : reflectorOf? f = some u) : Writes (.cfgRefl f) (.refl u)
  | plugClear : Writes .plugClear .clear
  | plugPair {f g : Field5} {a b : Sym26} (ha : symbolOf? f = some a) (hb : symbolOf? g = some b) :
      Writes (.plugPair f g) (.pair a b)

/-- The check that is left once the operands are read: a pair takes two different letters, both unplugged (R183). -/
def ConfigWrite.Allowed (plug : Vector Sym26 26) : ConfigWrite → Prop
  | .pair a b => a ≠ b ∧ swap plug a = a ∧ swap plug b = b
  | _ => True

/-- The write itself, RSP aside. -/
def ConfigWrite.apply (s : State) : ConfigWrite → State
  | .slot i type ring => s.withSlot i { s.slot i with type := type, ring := ring, valid := true }
  | .refl code => s.withRefl { valid := true, id := code }
  | .clear => s.withPlug identityPlug
  | .pair a b => s.withPlug (addPair s.plug a b)

theorem ConfigWrite.apply_phase (w : ConfigWrite) (s : State) : (w.apply s).phase = s.phase := by
  cases w with
  | slot i => exact State.withSlot_phase _ _ _
  | refl | clear | pair => rfl

/-- A write takes no notice of RSP. -/
theorem ConfigWrite.apply_withRsp (w : ConfigWrite) (s : State) (r : Word) :
    w.apply (s.withRsp r) = (w.apply s).withRsp r := by
  cases w with
  | slot i => cases i <;> rfl
  | refl | clear | pair => rfl

/-- An allowed write in CONFIG is made, and answered with a plain success. -/
theorem Writes.exec {i : Instr} {w : ConfigWrite} {s : State} (h : Writes i w) (hp : s.phase = .config)
    (ha : w.Allowed s.plug) : exec i s = .next ((w.apply s).withRsp 0x00000000#32) := by
  rw [← respond_config ((w.apply_phase s).trans hp)]
  cases h with
  | cfgRotor _ hi hg => exact exec_cfgRotor hp hi hg
  | cfgRefl hu => exact exec_cfgRefl hp hu
  | plugClear => exact exec_plugClear hp
  | plugPair hf hg =>
    obtain ⟨hab, hfree⟩ := ha
    exact exec_plugPair hp hf hg hab hfree.1 hfree.2

/-- Everything a configuration command can do: an error, which writes RSP only, or an allowed write in CONFIG. -/
theorem exec_config_cases {i : Instr} {s t : State} (hi : isConfigCommand i = true) (h : exec i s = .next t) :
    (∃ e, t = s.withRsp (errorWord e s.phase))
      ∨ ∃ w, Writes i w ∧ s.phase = .config ∧ w.Allowed s.plug ∧ t = (w.apply s).withRsp 0x00000000#32 := by
  suffices hw : (∃ e, t = s.withRsp (errorWord e s.phase)) ∨ ∃ w, Writes i w ∧ s.phase = .config ∧ w.Allowed s.plug by
    refine hw.imp_right fun ⟨w, hw, hp, ha⟩ => ⟨w, hw, hp, ha, ?_⟩
    rw [hw.exec hp ha] at h
    injection h with h
    exact h.symm
  cases exec_effect h with
  | error _ e => exact .inl ⟨e, rfl⟩
  | cfgRotor _ t _ _ _ hp hslot hg => exact .inr ⟨_, .cfgRotor t hslot hg, hp, trivial⟩
  | cfgRefl _ _ hp hu => exact .inr ⟨_, .cfgRefl hu, hp, trivial⟩
  | plugClear hp => exact .inr ⟨_, .plugClear, hp, trivial⟩
  | plugPair _ _ _ _ hp hf hg hab h1 h2 => exact .inr ⟨_, .plugPair hf hg, hp, hab, h1, h2⟩
  | _ => cases hi

/-- One that succeeds makes its write. -/
theorem writes_of_exec {i : Instr} {s t : State} (hi : isConfigCommand i = true) (h : exec i s = .next t)
    (hok : rspERR t.rsp = 0#4) :
    ∃ w, Writes i w ∧ s.phase = .config ∧ w.Allowed s.plug ∧ t = (w.apply s).withRsp 0x00000000#32 := by
  refine (exec_config_cases hi h).resolve_left ?_
  rintro ⟨e, rfl⟩
  exact errCode_ne_ok e ((rspERR_errorWord e s.phase).symm.trans hok)

/-! ### A command with one of its checks failed -/

section
variable {s : State} (hp : s.phase = .config)
include hp

theorem exec_cfgRotor_of_range {c : BitVec 2} {f : Field5} (t : BitVec 3)
    (h : slotOf? c = none ∨ symbolOf? f = none) : exec (.cfgRotor c t f) s = .next (s.withRsp 0x20000000#32) := by
  rw [← raiseErr_eq_withRsp (e := .range) hp (by decide) (by decide), exec, execCfgRotor, configCommand_of_config hp]
  rcases h with h | h
  · rw [h]
  · rw [h]; cases slotOf? c <;> rfl

theorem exec_cfgRefl_of_unknown {f : Field5} (h : reflectorOf? f = none) :
    exec (.cfgRefl f) s = .next (s.withRsp 0x30000000#32) := by
  rw [← raiseErr_eq_withRsp (e := .unknown) hp (by decide) (by decide), exec, execCfgRefl, configCommand_of_config hp, h]

theorem exec_plugPair_of_range {f g : Field5} (h : symbolOf? f = none ∨ symbolOf? g = none) :
    exec (.plugPair f g) s = .next (s.withRsp 0x20000000#32) := by
  rw [← raiseErr_eq_withRsp (e := .range) hp (by decide) (by decide), exec, execPlugPair, configCommand_of_config hp]
  rcases h with h | h
  · rw [h]
  · rw [h]; cases symbolOf? f <;> rfl

/-- A letter cannot be paired with itself (R183). -/
theorem exec_plugPair_of_same {f g : Field5} {a : Sym26} (ha : symbolOf? f = some a) (hb : symbolOf? g = some a) :
    exec (.plugPair f g) s = .next (s.withRsp 0x40000000#32) := by
  rw [← raiseErr_eq_withRsp (e := .plug) hp (by decide) (by decide), exec, execPlugPair, configCommand_of_config hp, ha,
    hb]
  exact congrArg _ (if_pos rfl)

theorem exec_setPos_of_range {f g h : Field5}
    (hnone : symbolOf? f = none ∨ symbolOf? g = none ∨ symbolOf? h = none) :
    exec (.setPos f g h) s = .next (s.withRsp 0x20000000#32) := by
  rw [← raiseErr_eq_withRsp (e := .range) hp (by decide) (by decide), exec, execSetPos,
    afterPrelude_of_ne_fault (by simp [hp]), if_neg (by simp [hp])]
  rcases hnone with hnone | hnone | hnone
  · rw [hnone]
  · rw [hnone]; cases symbolOf? f <;> rfl
  · rw [hnone]; cases symbolOf? f <;> cases symbolOf? g <;> rfl

variable {f g h : Field5} {l m r : Sym26} (hl : symbolOf? f = some l) (hm : symbolOf? g = some m)
  (hr : symbolOf? h = some r)
include hl hm hr

theorem exec_setPos_of_incomplete (hc : configured s = false) :
    exec (.setPos f g h) s = .next (s.withRsp 0x60000000#32) := by
  rw [← raiseErr_eq_withRsp (e := .incomplete) hp (by decide) (by decide)]
  simp [exec, execSetPos, afterPrelude, hp, hl, hm, hr, hc]

/-- SET_POS with nothing in its way (R185). -/
theorem exec_setPos (hc : configured s = true) :
    exec (.setPos f g h) s = .next
      (((((s.withPos .left (initialPos s.cfg s.left.ring l)).withPos .middle (initialPos s.cfg s.middle.ring m)).withPos
        .right (initialPos s.cfg s.right.ring r)).withPhase .ready).withRsp 0x04000000#32) := by
  rw [← respond_ready rfl]
  simp [exec, execSetPos, afterPrelude, hp, hl, hm, hr, hc]

end

/-! ### The meanings -/

/-- Settles O14: the write of its slot in CONFIG, and the errors in the order of R242. -/
theorem cfgRotorMeaning : Obligations.CfgRotorMeaning := by
  intro s slot type ring
  refine ⟨fun hp g hg => ?_, fun hp hrange => ?_, fun hp => exec_config_of_ready rfl hp,
    fun hp => exec_config_of_fault rfl hp⟩
  · have hring : symbolOf? ring = some g := symbolOf?_eq_some.2 hg
    refine ⟨?_, ?_, ?_⟩
    · rintro rfl; exact (Writes.cfgRotor (i := .left) type rfl hring).exec hp trivial
    · rintro rfl; exact (Writes.cfgRotor (i := .middle) type rfl hring).exec hp trivial
    · rintro rfl; exact (Writes.cfgRotor (i := .right) type rfl hring).exec hp trivial
  · exact exec_cfgRotor_of_range hp type (hrange.imp slotOf?_eq_none.2 symbolOf?_eq_none.2)

/-- Settles O15: the write of REFL in CONFIG, and the errors in the order of R242. -/
theorem cfgReflMeaning : Obligations.CfgReflMeaning := fun _ _ =>
  ⟨fun hp _ hu => (Writes.cfgRefl (reflectorOf?_eq_some.2 hu)).exec hp trivial,
    fun hp hcode => exec_cfgRefl_of_unknown hp (reflectorOf?_eq_none.2 hcode),
    fun hp => exec_config_of_ready rfl hp, fun hp => exec_config_of_fault rfl hp⟩

/-- Settles O16: the plugboard written is the identity, entry by entry. -/
theorem plugClearMeaning : Obligations.PlugClearMeaning := fun _ =>
  ⟨fun hp => ⟨identityPlug, swap_identityPlug, Writes.plugClear.exec hp trivial⟩,
    fun hp => exec_config_of_ready rfl hp, fun hp => exec_config_of_fault rfl hp⟩

/-- Settles O17: the plugboard written is read off entry by entry, and each failed check has its error. -/
theorem plugPairMeaning : Obligations.PlugPairMeaning := by
  intro s fb fc
  refine ⟨fun hp a b hfb hfc => ?_, fun hp hrange => ?_, fun hp => exec_config_of_ready rfl hp,
    fun hp => exec_config_of_fault rfl hp⟩
  · have ha : symbolOf? fb = some a := symbolOf?_eq_some.2 hfb
    have hb : symbolOf? fc = some b := symbolOf?_eq_some.2 hfc
    refine ⟨fun hab h1 h2 => ?_, ?_⟩
    · have hm := swap_addPair s.plug a b
      refine ⟨addPair s.plug a b, ?_, ?_, fun k hka hkb => ?_, (Writes.plugPair ha hb).exec hp ⟨hab, h1, h2⟩⟩
      · exact (hm a).trans (by simp [hab])
      · exact (hm b).trans (by simp)
      · exact (hm k).trans (by simp [hka, hkb, swap])
    · rintro (rfl | hplugged)
      · exact exec_plugPair_of_same hp ha hb
      · exact exec_plugPair_of_plugged hp ha hb hplugged
  · exact exec_plugPair_of_range hp (hrange.imp symbolOf?_eq_none.2 symbolOf?_eq_none.2)

/-- Settles O18: with POS_FRAME_WINDOW the operands are the positions; READY answers with E_MISUSE before it reads them. -/
theorem setPosMeaning : Obligations.SetPosMeaning := by
  intro s fa fb fc
  refine ⟨fun hp l m r hfa hfb hfc => ?_, fun hp hrange => ?_, fun hp => ?_, fun hp => ?_⟩
  · have hl : symbolOf? fa = some l := symbolOf?_eq_some.2 hfa
    have hm : symbolOf? fb = some m := symbolOf?_eq_some.2 hfb
    have hr : symbolOf? fc = some r := symbolOf?_eq_some.2 hfc
    refine ⟨fun hframe h1 h2 h3 h4 => ?_, fun hinvalid => ?_⟩
    · have hpos (ring x : Sym26) : initialPos s.cfg ring x = x := if_pos hframe
      rw [exec_setPos hp hl hm hr (configured_iff.2 ⟨h1, h2, h3, h4⟩), hpos, hpos, hpos]
      rfl
    · have hc : configured s = false := by
        rcases hinvalid with h | h | h | h <;> simp [configured, h]
      exact exec_setPos_of_incomplete hp hl hm hr hc
  · exact exec_setPos_of_range hp
      (hrange.imp symbolOf?_eq_none.2 (Or.imp symbolOf?_eq_none.2 symbolOf?_eq_none.2))
  · rw [exec, execSetPos, afterPrelude_of_ne_fault (by simp [hp]), if_pos hp, raiseErr_misuse]
    rfl
  · rw [exec, execSetPos, afterPrelude_of_fault hp]
    rfl

end Sys2Proof.Machine
end

section
/-! The order of configuration commands (44_config_commands.md R187): writes of different parts commute, so do two pairs,
since the second is accepted only where it shares no letter with the first; a second write of one part covers the first. -/

namespace Sys2Proof.Machine

/-! ### Two writes -/

/-- Two slots are written in either order (R20). -/
theorem State.withSlot_comm (s : State) {i j : SlotId} (hij : i ≠ j) (v w : Slot) :
    (s.withSlot i v).withSlot j w = (s.withSlot j w).withSlot i v := by
  cases i <;> cases j <;> simp [State.withSlot] at hij ⊢

/-- A letter is unplugged beside a new pair if it is none of the two and was unplugged before. -/
theorem swap_addPair_eq_self_iff {plug : Vector Sym26 26} {a b c : Sym26} (hab : a ≠ b) :
    swap (addPair plug a b) c = c ↔ c ≠ a ∧ c ≠ b ∧ swap plug c = c := by
  rw [← not_iff_not, ← ne_eq, ← mem_plugged, plugged_addPair plug hab]
  simp only [Finset.mem_insert, mem_plugged]
  tauto

/-- A plugboard is known by the letters it puts out. -/
theorem plug_ext {p q : Vector Sym26 26} (h : ∀ k, swap p k = swap q k) : p = q :=
  Vector.ext fun k hk => h ⟨k, hk⟩

/-- Two pairs without a common letter are entered in either order. -/
theorem addPair_comm (plug : Vector Sym26 26) {a b c d : Sym26} (hca : c ≠ a) (hcb : c ≠ b) (hda : d ≠ a)
    (hdb : d ≠ b) :
    addPair (addPair plug c d) a b = addPair (addPair plug a b) c d := by
  refine plug_ext fun k => ?_
  simp only [swap_addPair]
  by_cases hk : k = c ∨ k = d
  · rcases hk with rfl | rfl <;> simp [*]
  · obtain ⟨hkc, hkd⟩ := not_or.1 hk
    simp [hkc, hkd]

/-- A pair accepted after another shares no letter with it, so the two are accepted in the other order (R183, R187). -/
theorem pairs_commute {plug : Vector Sym26 26} {a b c d : Sym26} (h : (ConfigWrite.pair a b).Allowed plug)
    (h' : (ConfigWrite.pair c d).Allowed (addPair plug a b)) :
    (ConfigWrite.pair c d).Allowed plug ∧ (ConfigWrite.pair a b).Allowed (addPair plug c d)
      ∧ addPair (addPair plug c d) a b = addPair (addPair plug a b) c d := by
  obtain ⟨hab, ha, hb⟩ := h
  obtain ⟨hcd, hc, hd⟩ := h'
  obtain ⟨hca, hcb, hc⟩ := (swap_addPair_eq_self_iff hab).1 hc
  obtain ⟨hda, hdb, hd⟩ := (swap_addPair_eq_self_iff hab).1 hd
  refine ⟨⟨hcd, hc, hd⟩, ⟨hab, ?_, ?_⟩, addPair_comm plug hca hcb hda hdb⟩
  · exact (swap_addPair_eq_self_iff hcd).2 ⟨hca.symm, hda.symm, ha⟩
  · exact (swap_addPair_eq_self_iff hcd).2 ⟨hcb.symm, hdb.symm, hb⟩

/-- Two writes whose order may not matter: all but the exceptions of R187, a slot twice, the reflector twice, a pair and a
clearing. -/
def ConfigWrite.Independent : ConfigWrite → ConfigWrite → Prop
  | .slot i _ _, .slot j _ _ => i ≠ j
  | .refl _, .refl _ => False
  | .clear, .pair _ _ => False
  | .pair _ _, .clear => False
  | _, _ => True

/-- If the second of two independent writes is allowed after the first, then they are allowed in the other order, and leave
the same state. -/
theorem ConfigWrite.commute {w w' : ConfigWrite} {s : State} (hind : w.Independent w') (ha : w.Allowed s.plug)
    (ha' : w'.Allowed (w.apply s).plug) :
    w'.Allowed s.plug ∧ w.Allowed (w'.apply s).plug ∧ w.apply (w'.apply s) = w'.apply (w.apply s) := by
  cases w with
  | slot i =>
    refine ⟨by rwa [ConfigWrite.apply, State.withSlot_plug] at ha', trivial, ?_⟩
    cases w' with
    | slot j =>
      simp only [ConfigWrite.apply, State.slot_withSlot_ne _ _ _ _ (Ne.symm hind), State.slot_withSlot_ne _ _ _ _ hind]
      exact State.withSlot_comm s (Ne.symm hind) _ _
    | refl | clear | pair => cases i <;> rfl
  | refl =>
    cases w' with
    | slot j => exact ⟨trivial, trivial, by cases j <;> rfl⟩
    | refl => cases hind
    | clear => exact ⟨trivial, trivial, rfl⟩
    | pair => exact ⟨ha', trivial, rfl⟩
  | clear =>
    cases w' with
    | slot j => exact ⟨trivial, trivial, by cases j <;> rfl⟩
    | refl | clear => exact ⟨trivial, trivial, rfl⟩
    | pair => cases hind
  | pair a b =>
    cases w' with
    | slot j => exact ⟨trivial, by rwa [ConfigWrite.apply, State.withSlot_plug], by cases j <;> rfl⟩
    | refl => exact ⟨trivial, ha, rfl⟩
    | clear => cases hind
    | pair c d =>
      obtain ⟨hfirst, hsecond, heq⟩ := pairs_commute ha ha'
      exact ⟨hfirst, hsecond, congrArg s.withPlug heq⟩

/-- One write covers another if it writes the same slot, or both write the reflector. -/
def ConfigWrite.Covers : ConfigWrite → ConfigWrite → Prop
  | .slot i _ _, .slot j _ _ => i = j
  | .refl _, .refl _ => True
  | _, _ => False

/-- A write that is covered leaves no trace. -/
theorem ConfigWrite.Covers.apply_apply {w' w : ConfigWrite} (h : w'.Covers w) (s : State) :
    w'.apply (w.apply s) = w'.apply s := by
  cases w' <;> cases w <;> cases h
  case slot.slot i _ _ _ _ => cases i <;> rfl
  case refl.refl => rfl

/-- A covering write writes a slot or the reflector, so it is always allowed. -/
theorem ConfigWrite.Covers.allowed {w' w : ConfigWrite} (h : w'.Covers w) (plug : Vector Sym26 26) : w'.Allowed plug := by
  cases w' with
  | slot | refl | clear => trivial
  | pair => cases h

/-! ### Two commands -/

theorem orderFree_isConfigCommand {i j : Instr} (h : orderFree i j = true) :
    isConfigCommand i = true ∧ isConfigCommand j = true := by
  unfold orderFree at h
  split at h
  · exact ⟨rfl, rfl⟩
  · cases h
  · cases h
  · cases h
  · exact Bool.and_eq_true_iff.1 h

theorem Writes.independent {i j : Instr} {w w' : ConfigWrite} (hw : Writes i w) (hw' : Writes j w')
    (h : orderFree i j = true) : w.Independent w' := by
  cases hw with
  | cfgRotor _ hi => cases hw' with
    | cfgRotor _ hj =>
      rintro rfl
      exact bne_iff_ne.1 h (slotOf?_injective hi hj)
    | cfgRefl | plugClear | plugPair => trivial
  | cfgRefl => cases hw' with
    | cfgRefl => cases h
    | cfgRotor | plugClear | plugPair => trivial
  | plugClear => cases hw' with
    | plugPair => cases h
    | cfgRotor | cfgRefl | plugClear => trivial
  | plugPair => cases hw' with
    | plugClear => cases h
    | cfgRotor | cfgRefl | plugPair => trivial

/-- Settles O50: what the two commands write is independent, so it is allowed in the other order and leaves the same. -/
theorem configurationOrderDoesNotMatter : Obligations.ConfigurationOrderDoesNotMatter := by
  intro i j s t u hfree hp hi hti hj huj
  obtain ⟨hci, hcj⟩ := orderFree_isConfigCommand hfree
  obtain ⟨w, hw, -, ha, rfl⟩ := writes_of_exec hci hi hti
  obtain ⟨w', hw', -, ha', rfl⟩ := writes_of_exec hcj hj huj
  obtain ⟨hfirst, hsecond, heq⟩ := ConfigWrite.commute (hw.independent hw' hfree) ha ha'
  refine ⟨_, hw'.exec hp hfirst, hti, ?_⟩
  rw [hw.exec (s := (w'.apply s).withRsp 0x00000000#32) ((w'.apply_phase s).trans hp) hsecond]
  simp only [ConfigWrite.apply_withRsp, State.withRsp_withRsp, heq]

/-- A configuration command that covers what the one before it writes, if that succeeds, answers as if it stood alone. -/
theorem exec_of_covers {i j : Instr} {s t u : State} (hci : isConfigCommand i = true) (hcj : isConfigCommand j = true)
    (hcov : ∀ {w w'}, Writes i w → Writes j w' → w'.Covers w) (hi : exec i s = .next t) (hj : exec j t = .next u)
    (hok : rspERR u.rsp = 0#4) : exec j s = .next u := by
  obtain ⟨w', hw', hp', ha', rfl⟩ := writes_of_exec hcj hj hok
  rcases exec_config_cases hci hi with ⟨e, rfl⟩ | ⟨w, hw, hp, -, rfl⟩
  · rw [ConfigWrite.apply_withRsp, State.withRsp_withRsp]
    exact hw'.exec hp' ha'
  · have hc : w'.Covers w := hcov hw hw'
    rw [ConfigWrite.apply_withRsp, State.withRsp_withRsp, hc.apply_apply]
    exact hw'.exec hp (hc.allowed _)

/-- Settles O51: two CFG_ROTOR of one slot code write one slot, and two CFG_REFL the reflector. -/
theorem lastConfigurationWins : Obligations.LastConfigurationWins := by
  intro s t u slot type type' ring ring' c c'
  refine ⟨exec_of_covers rfl rfl fun hw hw' => ?_, exec_of_covers rfl rfl fun hw hw' => ?_⟩
  · obtain ⟨_, hi, _⟩ := hw
    obtain ⟨_, hi', _⟩ := hw'
    exact Option.some.inj (hi'.symm.trans hi)
  · obtain ⟨⟩ := hw
    obtain ⟨⟩ := hw'
    trivial

end Sys2Proof.Machine
end

section
/-! The key commands (45_key_commands.md R200 to R202): what each answers in each phase, and a text given to PRESS_CHAR
against its letters given to PRESS. A non-letter writes RSP only, with VALID clear, so the text passes through the
states its letters pass through and its valid responses are theirs. -/

namespace Sys2Proof.Machine

/-! ### The prelude, phase by phase -/

section
variable {s : State}

theorem readyCommand_of_fault (hp : s.phase = .fault) (body : State → State) :
    readyCommand s body = .next (s.withRsp 0x98000000#32) :=
  afterPrelude_of_fault hp _

/-- CONFIG has no positions to work at (R241). -/
theorem readyCommand_of_config (hp : s.phase = .config) (body : State → State) :
    readyCommand s body = .next (s.withRsp 0x70000000#32) := by
  rw [readyCommand, afterPrelude_of_ne_fault (by simp [hp]), if_pos hp]
  exact congrArg _ (raiseErr_eq_withRsp hp (by decide) (by decide))

theorem readyCommand_of_ready (hp : s.phase = .ready) (body : State → State) :
    readyCommand s body = .next (body s) := by
  rw [readyCommand, afterPrelude_of_ne_fault (by simp [hp]), if_neg (by simp [hp])]

/-! ### PRESS in READY -/

/-- A key press in READY: the step, and the response word of R200 for the letter put out after it. -/
theorem keyPress_of_ready (hp : s.phase = .ready) (x : Sym26) :
    keyPress x s = (stepController s).withRsp
      (0x06000000#32 ||| BitVec.ofNat 32 (0x41 + (pipeline (stepController s) x).val) <<< 16
        ||| BitVec.ofNat 32 (pipeline (stepController s) x).val) := by
  rw [keyPress_eq, hp, keyResponse_eq]

theorem exec_press_of_range (hp : s.phase = .ready) {f : Field5} (h : symbolOf? f = none) :
    exec (.press f) s = .next (s.withRsp 0x24000000#32) := by
  rw [← raiseErr_eq_withRsp (e := .range) hp (by decide) (by decide), exec, execPress, readyCommand_of_ready hp, h]

end

/-! ### The meanings -/

/-- Settles O20: a key press in READY once the field is read, and the errors in the order of R242. -/
theorem pressMeaning : Obligations.PressMeaning := by
  intro s key
  refine ⟨fun hp x hx => ?_, fun hp hrange => ?_, fun hp => ?_, fun hp => ?_⟩
  · rw [exec_press hp (symbolOf?_eq_some.2 hx), keyPress_of_ready hp]
    rfl
  · exact exec_press_of_range hp (symbolOf?_eq_none.2 hrange)
  · rw [exec, execPress, readyCommand_of_config hp]
    rfl
  · rw [exec, execPress, readyCommand_of_fault hp]
    rfl

/-- Settles O21: a key press in READY where the code is a letter, a plain success where it is none. -/
theorem pressCharMeaning : Obligations.PressCharMeaning := by
  intro s char
  refine ⟨fun hp x hx => ?_, fun hp hother => ?_, fun hp => ?_, fun hp => ?_⟩
  · rw [exec_pressChar hp (letterOf?_of_letter hx), keyPress_of_ready hp]
    rfl
  · rw [exec_pressChar_of_nonletter hp (letterOf?_eq_none hother), respond_ready hp]
    rfl
  · rw [exec, execPressChar, readyCommand_of_config hp]
    rfl
  · rw [exec, execPressChar, readyCommand_of_fault hp]
    rfl

/-! ### A text -/

theorem execute_pressCharWord_of_letter {s : State} (hp : s.phase = .ready) {c : Byte} {x : Sym26}
    (hc : letterOf? c = some x) : execute (pressCharWord c) s = .next (keyPress x s) := by
  rw [pressCharWord_eq_encode, execute_of_decode (decode_encode _), exec_pressChar hp hc]

/-- PRESS_CHAR words from a READY state, whatever RSP: the valid responses are those to the letters put out, and there
are as many steps as letters. -/
theorem issueAll_pressCharWord {s : State} (hp : s.phase = .ready) (r : Word) (text : List Byte) :
    ∃ rs w, issueAll (text.map pressCharWord) (s.withRsp r)
        = some (rs, (stepController^[(text.filterMap letterOf?).length] s).withRsp w)
      ∧ rs.filter (fun v => rspVALID v = 1#1) = (encipher s (text.filterMap letterOf?)).map keyResponse := by
  induction text generalizing s r with
  | nil => exact ⟨[], r, rfl, rfl⟩
  | cons c text ih =>
    cases hc : letterOf? c with
    | none =>
      have hskip : execute (pressCharWord c) (s.withRsp r) = .next (s.withRsp 0x04000000#32) := by
        rw [execute_pressCharWord_of_nonletter (s := s.withRsp r) hp hc, respond_ready (s := s.withRsp r) hp,
          State.withRsp_withRsp]
      have hquiet : rspVALID 0x04000000#32 ≠ 1#1 := by decide
      obtain ⟨rs, w, hrun, hvalid⟩ := ih hp 0x04000000#32
      rw [List.filterMap_cons_none hc]
      exact ⟨_, w, issueAll_cons_eq_some.2 ⟨_, rs, hskip, hrun, rfl⟩, by simpa [hquiet] using hvalid⟩
    | some x =>
      have hpress : execute (pressCharWord c) (s.withRsp r)
          = .next ((stepController s).withRsp (keyResponse (pipeline (stepController s) x))) := by
        rw [execute_pressCharWord_of_letter (s := s.withRsp r) hp hc, keyPress_withRsp hp]
      have hloud (y : Sym26) : rspVALID (keyResponse y) = 1#1 := rspVALID_keyResponse y
      obtain ⟨rs, w, hrun, hvalid⟩ :=
        ih ((stepController_phase s).trans hp) (keyResponse (pipeline (stepController s) x))
      rw [List.filterMap_cons_some hc]
      exact ⟨_, w, issueAll_cons_eq_some.2 ⟨_, rs, hpress, hrun, rfl⟩, by simp [hloud, hvalid, encipher]⟩

/-- Settles O33: the text and its letters make the same steps and put out the same letters. -/
theorem textConversion : Obligations.TextConversion := by
  intro s text hp
  obtain ⟨rs, w, htext, hvalid⟩ := issueAll_pressCharWord hp s.rsp text
  obtain ⟨w', hletters⟩ := issueAll_pressWord hp s.rsp (text.filterMap letterOf?)
  have hlength := length_of_issueAll hletters
  rw [List.length_map pressWord] at hlength
  exact ⟨_, _, _, _, htext, hletters, hvalid, hlength, rfl⟩

end Sys2Proof.Machine
end

section
/-! The system commands (46_system_commands.md R220 to R223): the words STATUS and GET_POS answer, field by field, and the
state RESET leaves. A STATUS word is a function of the phase, the pair count and the configuration mask, a GET_POS word
one of the phase and the positions. -/

namespace Sys2Proof.Machine

/-! ### The response words -/

/-- A success response without an output letter: the phase and the three data fields at their places (R84). -/
theorem quietResponse_eq (p : Phase) (d2 d1 d0 : Field5) :
    responseWord okCode p false 0#8 d2 d1 d0
      = BitVec.ofNat 32 p.code.toNat <<< 26 ||| d2.setWidth 32 <<< 10 ||| d1.setWidth 32 <<< 5 ||| d0.setWidth 32 := by
  simp [responseWord, place, okCode]

theorem setWidth_fieldOfSymbol (x : Sym26) : (fieldOfSymbol x).setWidth 32 = BitVec.ofNat 32 x.val :=
  BitVec.setWidth_ofNat_of_le_of_lt (by decide) (by omega)

/-- The pair count, at most 13, fits its field (R220). -/
theorem setWidth_pairCount (plug : Vector Sym26 26) :
    (BitVec.ofNat 5 (pairCount plug)).setWidth 32 = BitVec.ofNat 32 (pairCount plug) := by
  have hle := pairCount_le plug
  exact BitVec.setWidth_ofNat_of_le_of_lt (by decide) (by omega)

/-- The configuration mask as a sum of its bits (R220). -/
theorem setWidth_configMask (s : State) :
    (configMask s).setWidth 32
      = BitVec.ofNat 32 ((if s.refl.valid then 8 else 0) + (if s.right.valid then 4 else 0)
          + (if s.middle.valid then 2 else 0) + (if s.left.valid then 1 else 0)) := by
  rw [configMask]
  generalize s.refl.valid = u, s.right.valid = r, s.middle.valid = m, s.left.valid = l
  revert u r m l
  decide

/-! ### STATUS and GET_POS -/

/-- STATUS in every phase: it passes no prelude (R241). -/
theorem exec_status (s : State) :
    exec .status s = .next (s.withRsp
      (responseWord okCode s.phase false 0#8 0#5 (BitVec.ofNat 5 (pairCount s.plug)) (configMask s))) := rfl

theorem exec_getPos_of_ready {s : State} (hp : s.phase = .ready) :
    exec .getPos s = .next (s.withRsp
      (responseWord okCode .ready false 0#8 (fieldOfSymbol s.left.pos) (fieldOfSymbol s.middle.pos)
        (fieldOfSymbol s.right.pos))) := by
  rw [exec, execGetPos, readyCommand_of_ready hp, respondWith_eq, hp]

theorem exec_getPos_of_config {s : State} (hp : s.phase = .config) :
    exec .getPos s = .next (s.withRsp 0x70000000#32) := by
  rw [exec, execGetPos, readyCommand_of_config hp]

theorem exec_getPos_of_fault {s : State} (hp : s.phase = .fault) :
    exec .getPos s = .next (s.withRsp 0x98000000#32) := by
  rw [exec, execGetPos, readyCommand_of_fault hp]

/-! ### The meanings -/

/-- Settles O34: the three fields of the word STATUS answers, each as a number. -/
theorem statusMeaning : Obligations.StatusMeaning := by
  intro s phase pairs mask hphase hpairs hmask
  have hphase : s.phase.code.toNat = phase := by rw [hphase]; cases s.phase <;> rfl
  have hpairs : pairCount s.plug = pairs := (pairCount_eq_card_plugged s.plug).trans hpairs.symm
  rw [exec_status, quietResponse_eq, setWidth_pairCount, setWidth_configMask, hphase, hpairs, ← hmask]
  simp [State.withRsp]

/-- Settles O35: the three positions at their places in READY, and the errors of the prelude in the other phases. -/
theorem getPosMeaning : Obligations.GetPosMeaning := by
  intro s
  refine ⟨fun hp => ?_, exec_getPos_of_config, exec_getPos_of_fault⟩
  rw [exec_getPos_of_ready hp, quietResponse_eq, setWidth_fieldOfSymbol, setWidth_fieldOfSymbol, setWidth_fieldOfSymbol]
  rfl

/-- Settles O36: the plugboard after RESET is the identity, entry by entry, and its response is the reset value of RSP. -/
theorem resetMeaning : Obligations.ResetMeaning := by
  intro s
  refine ⟨identityPlug, swap_identityPlug, ?_⟩
  rw [exec, execReset, respond_resetCore]
  rfl

/-- Settles O48: the two words are functions of what the two states share. -/
theorem statusAndGetPosShowNoKey : Obligations.StatusAndGetPosShowNoKey := by
  intro s t hphase hleft hmiddle hright hrefl hpairs hl hm hr
  have hmask : configMask s = configMask t := by simp only [configMask, hleft, hmiddle, hright, hrefl]
  refine ⟨⟨_, _, exec_status s, exec_status t, ?_⟩, ?_⟩
  · simp only [State.withRsp_rsp, hphase, hpairs, hmask]
  · cases hp : t.phase with
    | config => exact ⟨_, _, exec_getPos_of_config (hphase.trans hp), exec_getPos_of_config hp, rfl⟩
    | fault => exact ⟨_, _, exec_getPos_of_fault (hphase.trans hp), exec_getPos_of_fault hp, rfl⟩
    | ready =>
      refine ⟨_, _, exec_getPos_of_ready (hphase.trans hp), exec_getPos_of_ready hp, ?_⟩
      simp only [State.withRsp_rsp, hl, hm, hr]

end Sys2Proof.Machine
end

section
/-! When a step stops or does nothing, and what it leaves alone beside it (60_exceptions.md R240, R246, R252, R253). -/

namespace Sys2Proof.Machine

/-! ### When a step stops -/

/-- Settles O9: with no action waiting there is none to perform. -/
theorem nothingHappensWithoutAHostAction : Obligations.NothingHappensWithoutAHostAction := by
  intro s h
  simp only [step, performNext, h]

/-- Settles O12: a command word always completes, and a read of RSP and a reset have no other outcome. -/
theorem onlyBusAccessesCanStop : Obligations.OnlyBusAccessesCanStop := by
  intro s hread hwrite
  cases hp : s.pending with
  | nil => exact ⟨s, nothingHappensWithoutAHostAction s hp⟩
  | cons a rest =>
    rw [step_of_pending hp]
    cases a with
    | command w =>
      obtain ⟨t, ht⟩ := execute_next w { s with pending := rest }
      exact ⟨_, runCommand_of_execute ht⟩
    | readRsp | resetInput => exact ⟨_, rfl⟩
    | busRead addr bytes => exact absurd hp (hread addr bytes rest)
    | busWrite addr data => exact absurd hp (hwrite addr data rest)

/-! ### Several machines side by side (R252) -/

/-- Everything a step of the k-th machine can do to a system: nothing where there is none, else that machine's own
step. -/
theorem stepInstance_cases {k : Nat} {system system' : List State} (h : stepInstance k system = .next system') :
    (system[k]? = none ∧ system' = system)
      ∨ ∃ s t, system[k]? = some s ∧ step s = .next t ∧ system' = system.set k t := by
  unfold stepInstance at h
  split at h
  · injection h with h
    exact .inl ⟨‹_›, h.symm⟩
  · split at h
    · injection h with h
      exact .inr ⟨_, _, ‹_›, ‹_›, h.symm⟩
    · cases h
    · cases h

/-- Settles O56: the step writes the k-th place of the list only. -/
theorem instancesShareNothing : Obligations.InstancesShareNothing := by
  intro k system system' h
  rcases stepInstance_cases h with ⟨hnone, rfl⟩ | ⟨s, t, hs, ht, rfl⟩
  · refine ⟨rfl, fun _ _ => rfl, fun s hs => ?_⟩
    rw [hnone] at hs
    cases hs
  · refine ⟨List.length_set, fun j hj => List.getElem?_set_ne hj.symm, fun s' hs' => ?_⟩
    obtain rfl : s = s' := Option.some.inj (hs.symm.trans hs')
    obtain ⟨hk, -⟩ := List.getElem?_eq_some_iff.1 hs
    exact ⟨t, ht, List.getElem?_set_self hk⟩

end Sys2Proof.Machine
end

section
/-! The errors of a command word (60_exceptions.md R240 to R245): every error but E_MISUSE writes RSP only; of the
classes of R242 that apply to a word the first is reported; in FAULT every word but RESET only answers. -/

namespace Sys2Proof.Machine

/-! ### Precise errors (R245) -/

@[simp] theorem rspERR_keyPress (x : Sym26) (s : State) : rspERR (keyPress x s).rsp = 0#4 := rspERR_respondWith ..

/-- By the code it answers, a command succeeds, enters FAULT, or writes RSP only. -/
theorem Effect.err {s t : State} {i : Instr} (h : Effect s i t) :
    rspERR t.rsp = 0#4 ∨ rspERR t.rsp = 8#4 ∨ ∃ e, t = s.withRsp (errorWord e s.phase) := by
  cases h with
  | error _ e => exact .inr (.inr ⟨e, rfl⟩)
  | misuse => exact .inr (.inl (show rspERR 0x88000000#32 = 8#4 by decide))
  | status | getPos => exact .inl (rspERR_respondWith ..)
  | cfgRotor | cfgRefl | plugClear | plugPair | setPos | skipChar => exact .inl (rspERR_respond _)
  | press | pressChar => exact .inl (rspERR_keyPress ..)
  | reset => exact .inl (show rspERR 0x00000000#32 = 0#4 by decide)

/-- Settles O44: a code that is neither 0 nor 8 leaves the third way only. -/
theorem errorsArePrecise : Obligations.ErrorsArePrecise := by
  intro w s t h h0 h8
  rcases execute_cases h with ⟨-, rfl⟩ | ⟨i, -, hi⟩
  · rfl
  · rcases (exec_effect hi).err with hok | hmisuse | ⟨e, rfl⟩
    · exact absurd hok h0
    · exact absurd hmisuse h8
    · rfl

/-! ### The classes of R242 -/

/-- The value of ERR for the error reported, 0 where there is none (R240). -/
def codeOf : Option ErrCode → BitVec 4
  | none => 0#4
  | some e => e.code

@[simp] theorem codeOf_none : codeOf none = 0#4 := rfl
@[simp] theorem codeOf_some (e : ErrCode) : codeOf (some e) = e.code := rfl

/-- Classes 4 and 5: the checks of the operand values. -/
def operandError (i : Instr) (s : State) : Option ErrCode := (rangeClass i).or (semanticClass i s)

/-- Classes 2 to 5 in their order: the error that a command reports. -/
def commandError (i : Instr) (s : State) : Option ErrCode :=
  (faultClass i s).or ((phaseClass i s).or (operandError i s))

theorem reportedError_of_command {w : Word} {i : Instr} (h : decode w = .command i) (s : State) :
    reportedError w s = commandError i s := by
  simp only [reportedError, h, commandError, operandError]

section
variable {i : Instr} {s : State}

theorem commandError_of_fault (hp : s.phase = .fault) (hs : i ≠ .status) (hr : i ≠ .reset) :
    commandError i s = some .fault := by
  simp [commandError, faultClass, hp, hs, hr]

theorem commandError_of_ne_fault (hp : s.phase ≠ .fault) :
    commandError i s = (phaseClass i s).or (operandError i s) := by
  simp [commandError, faultClass, hp]

/-- STATUS and RESET run in every phase and read no operand (R241). -/
theorem commandError_of_system (hi : i = .status ∨ i = .reset) : commandError i s = none := by
  have hphase : phaseClass i s = none := by
    rcases hi with rfl | rfl <;> cases hp : s.phase <;> simp [phaseClass, hp, isConfigCommand, needsPositions]
  have hoperand : operandError i s = none := by rcases hi with rfl | rfl <;> rfl
  have hfault : faultClass i s = none := by rcases hi with rfl | rfl <;> simp [faultClass]
  rw [commandError, hfault, hphase, hoperand]
  rfl

/-- No configuration command needs positions. -/
theorem isConfigCommand_and_needsPositions (i : Instr) : (isConfigCommand i && needsPositions i) = false := by
  cases i <;> rfl

theorem phaseClass_of_config (hp : s.phase = .config) :
    phaseClass i s = if needsPositions i then some .notReady else none := by
  cases i <;> simp [phaseClass, hp]

theorem phaseClass_of_ready (hp : s.phase = .ready) (hi : ∀ l m r, i ≠ .setPos l m r) :
    phaseClass i s = if isConfigCommand i then some .locked else none := by
  cases i with
  | setPos l m r => exact absurd rfl (hi l m r)
  | _ => simp [phaseClass, hp]

theorem phaseClass_setPos_of_ready (hp : s.phase = .ready) (l m r : Field5) :
    phaseClass (.setPos l m r) s = some .misuse := by
  simp [phaseClass, hp]

theorem operandError_of_wellFormed (h : i.wellFormed = true) : operandError i s = semanticClass i s := by
  simp [operandError, rangeClass, h]

theorem operandError_of_range (h : i.wellFormed = false) (hi : ∀ c, i ≠ .cfgRefl c) :
    operandError i s = some .range := by
  cases i with
  | cfgRefl c => exact absurd rfl (hi c)
  | _ => simp [operandError, rangeClass, h]

end

/-! ### Operands: the values in range are those that can be read -/

@[simp] theorem symbolField_eq_isSome (f : Field5) : symbolField f = (symbolOf? f).isSome := by
  revert f; decide

@[simp] theorem slotField_eq_isSome (c : BitVec 2) : slotField c = (slotOf? c).isSome := by
  revert c; decide

@[simp] theorem reflectorField_eq_isSome (f : Field5) : reflectorField f = (reflectorOf? f).isSome := by
  revert f; decide

/-- The semantic check of PLUG_PAIR on the letters its fields hold. -/
theorem semanticClass_plugPair {f g : Field5} {a b : Sym26} (ha : symbolOf? f = some a) (hb : symbolOf? g = some b)
    (s : State) :
    semanticClass (.plugPair f g) s
      = if a = b ∨ swap s.plug a ≠ a ∨ swap s.plug b ≠ b then some .plug else none := by
  have hf := symbolOf?_eq_some.1 ha
  have hg := symbolOf?_eq_some.1 hb
  have hab : f = g ↔ a = b := by rw [← BitVec.toNat_inj, hf, hg, Fin.val_inj]
  simp only [semanticClass, hab, hf, hg, Fin.val_inj, or_and_right, exists_or, exists_eq_left]

/-! ### The first class is reported -/

/-- The outcome is a next state that answers the code of this error. -/
def Reports (o : Host.Outcome State Fault Refusal) (e : Option ErrCode) : Prop :=
  ∃ t, o = .next t ∧ rspERR t.rsp = codeOf e

theorem reports_next {t : State} {e : Option ErrCode} (h : rspERR t.rsp = codeOf e) : Reports (.next t) e :=
  ⟨t, rfl, h⟩

section
variable {i : Instr} {s : State} {body : State → State}

/-- Behind the prelude FAULT is reported first; at the other phases the body reports (R241). -/
theorem reports_afterPrelude (hs : i ≠ .status) (hr : i ≠ .reset)
    (hbody : s.phase ≠ .fault → rspERR (body s).rsp = codeOf ((phaseClass i s).or (operandError i s))) :
    Reports (afterPrelude s body) (commandError i s) := by
  by_cases hp : s.phase = .fault
  · rw [afterPrelude, if_pos hp, commandError_of_fault hp hs hr]
    exact reports_next (rspERR_raiseErr .fault s)
  · rw [afterPrelude_of_ne_fault hp, commandError_of_ne_fault hp]
    exact reports_next (hbody hp)

/-- READY locks the configuration commands, and CONFIG leaves them to their operands (R184). -/
theorem reports_configCommand (hi : isConfigCommand i = true)
    (hbody : rspERR (body s).rsp = codeOf (operandError i s)) : Reports (configCommand s body) (commandError i s) := by
  refine reports_afterPrelude (by rintro rfl; cases hi) (by rintro rfl; cases hi) fun hp => ?_
  cases hphase : s.phase with
  | config =>
    have hpos : needsPositions i = false := by simpa [hi] using isConfigCommand_and_needsPositions i
    simpa [phaseClass_of_config hphase, hpos, hphase] using hbody
  | ready =>
    have hset : ∀ l m r, i ≠ .setPos l m r := by rintro l m r rfl; cases hi
    simp [phaseClass_of_ready hphase hset, hi]
  | fault => exact absurd hphase hp

/-- CONFIG has no positions for the commands that need them, and READY leaves them to their operands. -/
theorem reports_readyCommand (hi : needsPositions i = true)
    (hbody : rspERR (body s).rsp = codeOf (operandError i s)) : Reports (readyCommand s body) (commandError i s) := by
  refine reports_afterPrelude (by rintro rfl; cases hi) (by rintro rfl; cases hi) fun hp => ?_
  cases hphase : s.phase with
  | config => simp [phaseClass_of_config hphase, hi]
  | ready =>
    have hconf : isConfigCommand i = false := by simpa [hi] using isConfigCommand_and_needsPositions i
    have hset : ∀ l m r, i ≠ .setPos l m r := by rintro l m r rfl; cases hi
    simpa [phaseClass_of_ready hphase hset, hconf, hphase] using hbody
  | fault => exact absurd hphase hp

end

section
variable (s : State)

theorem reports_cfgRotor (c : BitVec 2) (t : BitVec 3) (f : Field5) :
    Reports (exec (.cfgRotor c t f) s) (commandError (.cfgRotor c t f) s) := by
  rw [exec, execCfgRotor]
  refine reports_configCommand rfl ?_
  match hi : slotOf? c, hg : symbolOf? f with
  | some i, some g =>
    rw [operandError_of_wellFormed (by simp [Instr.wellFormed, hi, hg])]
    exact rspERR_respond _
  | none, _ | some _, none =>
    rw [operandError_of_range (by simp [Instr.wellFormed, hi, hg]) (by simp)]
    exact rspERR_raiseErr .range s

theorem reports_cfgRefl (f : Field5) : Reports (exec (.cfgRefl f) s) (commandError (.cfgRefl f) s) := by
  rw [exec, execCfgRefl]
  refine reports_configCommand rfl ?_
  simp only [operandError, rangeClass, semanticClass, Instr.wellFormed, reflectorField_eq_isSome]
  cases reflectorOf? f with
  | some u => exact rspERR_respond _
  | none => exact rspERR_raiseErr .unknown s

/-- Two letters that can be read are checked against each other and the plugboard (R183). -/
theorem reports_plugPair (f g : Field5) : Reports (exec (.plugPair f g) s) (commandError (.plugPair f g) s) := by
  rw [exec, execPlugPair]
  refine reports_configCommand rfl ?_
  match ha : symbolOf? f, hb : symbolOf? g with
  | some a, some b =>
    rw [operandError_of_wellFormed (by simp [Instr.wellFormed, ha, hb]), semanticClass_plugPair ha hb]
    by_cases hab : a = b
    · simp [hab]
    · by_cases hplugged : swap s.plug a ≠ a ∨ swap s.plug b ≠ b <;> simp [hab, hplugged]
  | none, _ | some _, none =>
    rw [operandError_of_range (by simp [Instr.wellFormed, ha, hb]) (by simp)]
    exact rspERR_raiseErr .range s

/-- READY answers E_MISUSE; in CONFIG the operands are checked first, then the configuration (R185, R186). -/
theorem reports_setPos (f g h : Field5) : Reports (exec (.setPos f g h) s) (commandError (.setPos f g h) s) := by
  rw [exec, execSetPos]
  refine reports_afterPrelude (by simp) (by simp) fun hp => ?_
  cases hphase : s.phase with
  | config =>
    simp only [phaseClass_of_config hphase, needsPositions]
    match hl : symbolOf? f, hm : symbolOf? g, hr : symbolOf? h with
    | some l, some m, some r =>
      rw [operandError_of_wellFormed (by simp [Instr.wellFormed, hl, hm, hr])]
      cases hc : configured s <;> simp [semanticClass, hc, ErrCode.code]
    | none, _, _ | some _, none, _ | some _, some _, none =>
      rw [operandError_of_range (by simp [Instr.wellFormed, hl, hm, hr]) (by simp)]
      simp
  | ready => simp [phaseClass_setPos_of_ready hphase]
  | fault => exact absurd hphase hp

theorem reports_press (f : Field5) : Reports (exec (.press f) s) (commandError (.press f) s) := by
  rw [exec, execPress]
  refine reports_readyCommand rfl ?_
  match hx : symbolOf? f with
  | some x =>
    rw [operandError_of_wellFormed (by simp [Instr.wellFormed, hx])]
    exact rspERR_keyPress x s
  | none =>
    rw [operandError_of_range (by simp [Instr.wellFormed, hx]) (by simp)]
    exact rspERR_raiseErr .range s

end

/-- A command reports the first class that applies to it. -/
theorem exec_reports (i : Instr) (s : State) : Reports (exec i s) (commandError i s) := by
  cases i with
  | status =>
    rw [commandError_of_system (.inl rfl)]
    exact reports_next (rspERR_respondWith ..)
  | reset =>
    rw [commandError_of_system (.inr rfl)]
    exact reports_next (rspERR_respond _)
  | cfgRotor c t f => exact reports_cfgRotor s c t f
  | cfgRefl f => exact reports_cfgRefl s f
  | plugClear =>
    rw [exec, execPlugClear]
    exact reports_configCommand rfl (rspERR_respond _)
  | plugPair f g => exact reports_plugPair s f g
  | setPos f g h => exact reports_setPos s f g h
  | press f => exact reports_press s f
  | pressChar c =>
    rw [exec, execPressChar]
    refine reports_readyCommand rfl ?_
    cases letterOf? c with
    | some x => exact rspERR_keyPress x s
    | none => exact rspERR_respond s
  | getPos =>
    rw [exec, execGetPos]
    exact reports_readyCommand rfl (rspERR_respondWith ..)

/-- So does a word, whose first class is that it is no command (R80, R81). -/
theorem execute_reports (w : Word) (s : State) : Reports (execute w s) (reportedError w s) := by
  cases hd : decode w with
  | illegal why =>
    simp only [execute, reportedError, hd]
    exact reports_next (rspERR_raiseErr .illegal s)
  | command i =>
    rw [execute_of_decode hd, reportedError_of_command hd]
    exact exec_reports i s

/-- Settles O45: the code of the class reported, written out. -/
theorem firstApplicableErrorIsReported : Obligations.FirstApplicableErrorIsReported := by
  intro w s
  obtain ⟨t, ht, herr⟩ := execute_reports w s
  refine ⟨t, ht, herr.trans ?_⟩
  cases reportedError w s with
  | none => rfl
  | some e => cases e <;> rfl

/-! ### FAULT (R243, R244) -/

/-- One word alone decodes as RESET (R73, R83). -/
theorem ne_reset_of_decode {w : Word} {i : Instr} (hd : decode w = .command i) (hw : w ≠ 0xF0000000#32) :
    i ≠ .reset := by
  rintro rfl
  exact hw (encodeInvertsDecode w .reset hd).symm

section
variable {s : State} (hp : s.phase = .fault)
include hp

/-- In FAULT every command but STATUS and RESET answers E_FAULT (R241). -/
theorem exec_of_fault {i : Instr} (hs : i ≠ .status) (hr : i ≠ .reset) :
    exec i s = .next (s.withRsp 0x98000000#32) := by
  cases i with
  | status => exact absurd rfl hs
  | reset => exact absurd rfl hr
  | cfgRotor | cfgRefl | plugClear | plugPair => exact exec_config_of_fault rfl hp
  | setPos => rw [exec, execSetPos, afterPrelude_of_fault hp]
  | press => rw [exec, execPress, readyCommand_of_fault hp]
  | pressChar => rw [exec, execPressChar, readyCommand_of_fault hp]
  | getPos => exact exec_getPos_of_fault hp

/-- In FAULT a word that is not RESET writes RSP only. -/
theorem execute_of_fault {w : Word} (hw : w ≠ 0xF0000000#32) {t : State} (h : execute w s = .next t) :
    ∃ r, t = s.withRsp r := by
  rcases execute_cases h with ⟨-, rfl⟩ | ⟨i, hi, hexec⟩
  · exact ⟨_, rfl⟩
  · by_cases hstatus : i = .status
    · subst hstatus
      cases hexec
      exact ⟨_, rfl⟩
    · rw [exec_of_fault hp hstatus (ne_reset_of_decode hi hw)] at hexec
      cases hexec
      exact ⟨_, rfl⟩

end

/-- So does a sequence of words without RESET. -/
theorem issueAll_of_fault {ws : List Word} {s t : State} {rs : List Word} (hp : s.phase = .fault)
    (hws : 0xF0000000#32 ∉ ws) (h : issueAll ws s = some (rs, t)) : ∃ r, t = s.withRsp r := by
  induction ws generalizing s rs with
  | nil => cases h; exact ⟨t.rsp, rfl⟩
  | cons w ws ih =>
    obtain ⟨hw, hws⟩ := List.ne_and_not_mem_of_not_mem_cons hws
    obtain ⟨u, rs', hu, ht, -⟩ := issueAll_cons_eq_some.1 h
    obtain ⟨r, rfl⟩ := execute_of_fault hp (Ne.symm hw) hu
    obtain ⟨r', rfl⟩ := ih (s := s.withRsp r) hp hws ht
    exact ⟨r', rfl⟩

/-- Settles O47: the sequence completes and writes RSP only, and each of its commands answers in FAULT. -/
theorem faultIsLeftOnlyByReset : Obligations.FaultIsLeftOnlyByReset := by
  intro s ws hp hws
  refine ⟨?_, fun w hw i hi hstatus => ?_⟩
  · obtain ⟨rs, t, h⟩ := issueAll_total ws s
    obtain ⟨r, rfl⟩ := issueAll_of_fault hp hws h
    exact ⟨rs, _, h, rfl⟩
  · have hreset : i ≠ .reset := ne_reset_of_decode hi (by rintro rfl; exact hws hw)
    rw [execute_of_decode hi, exec_of_fault hp hstatus hreset]
    rfl

end Sys2Proof.Machine
end

section
/-! The reset input (70_reset_and_hazards.md R270) and SET_POS in the core offset frame (93_implementation_defined.md U3,
log entry 4). -/

namespace Sys2Proof.Machine

/-- RESET has the effect of the reset input: its response is the reset value of RSP (R222, R270). -/
theorem exec_reset (s : State) : exec .reset s = .next (resetCore s) :=
  congrArg Host.Outcome.next (respond_resetCore s)

/-- Settles O11: both answer resetCore of the state with the action taken off, whose plugboard is the identity. -/
theorem resetInputActsAsReset : Obligations.ResetInputActsAsReset :=
  fun _ _ hp => ⟨_, exec_reset _, step_of_pending hp, rfl, swap_identityPlug⟩

/-- With POS_FRAME_WINDOW false the position of an operand has it as core offset (R33, U3). -/
theorem coreOffset_initialPos {c : Config} (hframe : c.posFrameWindow = false) (ring x : Sym26) :
    coreOffset ring (initialPos c ring x) = x := by
  simp [initialPos, hframe]

/-- Settles O19: SET_POS writes the positions of its operands, whose core offsets these are. -/
theorem setPosInTheCoreOffsetFrame : Obligations.SetPosInTheCoreOffsetFrame := by
  intro s fa fb fc l m r hp hframe h1 h2 h3 h4 hfa hfb hfc
  have hexec := exec_setPos hp (symbolOf?_eq_some.2 hfa) (symbolOf?_eq_some.2 hfb) (symbolOf?_eq_some.2 hfc)
    (configured_iff.2 ⟨h1, h2, h3, h4⟩)
  exact ⟨_, hexec, rfl, coreOffset_initialPos hframe _ l, coreOffset_initialPos hframe _ m,
    coreOffset_initialPos hframe _ r⟩

end Sys2Proof.Machine
end

section
/-! Pairs entered one after another (44_config_commands.md R183; 30_encoding.md R90, PLUGS): where no letter stands twice,
each pair is accepted and no later one touches it. -/

namespace Sys2Proof.Machine

/-! ### The plugboard a list of pairs makes -/

/-- Pairs entered in both directions, in order. -/
def addPairs (plug : Vector Sym26 26) (pairs : List (Sym26 × Sym26)) : Vector Sym26 26 :=
  pairs.foldl (fun m p => addPair m p.1 p.2) plug

/-- The letters of a list of pairs. -/
def pairLetters (pairs : List (Sym26 × Sym26)) : List Sym26 := pairs.flatMap fun p => [p.1, p.2]

@[simp] theorem addPairs_nil (plug : Vector Sym26 26) : addPairs plug [] = plug := rfl

@[simp] theorem addPairs_cons (plug : Vector Sym26 26) (p : Sym26 × Sym26) (ps : List (Sym26 × Sym26)) :
    addPairs plug (p :: ps) = addPairs (addPair plug p.1 p.2) ps := rfl

theorem mem_pairLetters {pairs : List (Sym26 × Sym26)} {k : Sym26} :
    k ∈ pairLetters pairs ↔ ∃ p ∈ pairs, k = p.1 ∨ k = p.2 := by
  simp [pairLetters]

theorem pairLetters_cons (p : Sym26 × Sym26) (ps : List (Sym26 × Sym26)) :
    pairLetters (p :: ps) = p.1 :: p.2 :: pairLetters ps := rfl

/-- No letter stands twice: the first pair has two letters, none of them in the pairs after it, where none stands twice. -/
theorem nodup_pairLetters_cons {p : Sym26 × Sym26} {ps : List (Sym26 × Sym26)} :
    (pairLetters (p :: ps)).Nodup
      ↔ p.1 ≠ p.2 ∧ p.1 ∉ pairLetters ps ∧ p.2 ∉ pairLetters ps ∧ (pairLetters ps).Nodup := by
  rw [pairLetters_cons, List.nodup_cons, List.nodup_cons, List.mem_cons, not_or, and_assoc]

/-- A letter of no pair stays as it was. -/
theorem swap_addPairs_of_notMem {pairs : List (Sym26 × Sym26)} {k : Sym26} (hk : k ∉ pairLetters pairs)
    (plug : Vector Sym26 26) : swap (addPairs plug pairs) k = swap plug k := by
  induction pairs generalizing plug with
  | nil => rfl
  | cons p ps ih =>
    obtain ⟨hk1, hk⟩ := List.ne_and_not_mem_of_not_mem_cons hk
    obtain ⟨hk2, hk⟩ := List.ne_and_not_mem_of_not_mem_cons hk
    rw [addPairs_cons, ih hk, swap_addPair, if_neg hk2, if_neg hk1]

/-- The letters of a pair are exchanged. -/
theorem swap_addPairs_of_mem {pairs : List (Sym26 × Sym26)} (hnodup : (pairLetters pairs).Nodup)
    {p : Sym26 × Sym26} (hp : p ∈ pairs) (plug : Vector Sym26 26) :
    swap (addPairs plug pairs) p.1 = p.2 ∧ swap (addPairs plug pairs) p.2 = p.1 := by
  induction pairs generalizing plug with
  | nil => cases hp
  | cons q qs ih =>
    obtain ⟨hq, hq1, hq2, hqs⟩ := nodup_pairLetters_cons.1 hnodup
    rcases List.mem_cons.1 hp with rfl | hp
    · rw [addPairs_cons, swap_addPairs_of_notMem hq1, swap_addPairs_of_notMem hq2, swap_addPair, swap_addPair]
      simp [hq]
    · exact ih hqs hp _

/-- Disjoint pairs entered in the identity make an involution (R26). -/
theorem plugInvolution_addPairs {pairs : List (Sym26 × Sym26)} (hnodup : (pairLetters pairs).Nodup) :
    PlugInvolution (addPairs identityPlug pairs) := by
  intro k
  by_cases hk : k ∈ pairLetters pairs
  · obtain ⟨p, hp, hkp⟩ := mem_pairLetters.1 hk
    obtain ⟨h1, h2⟩ := swap_addPairs_of_mem hnodup hp identityPlug
    rcases hkp with rfl | rfl
    · rw [h1, h2]
    · rw [h2, h1]
  · have hfix : swap (addPairs identityPlug pairs) k = k :=
      (swap_addPairs_of_notMem hk _).trans (swap_identityPlug k)
    rw [hfix, hfix]

/-! ### The commands that enter it -/

/-- A command in front of a sequence of them. -/
theorem issueAll_encode_cons {i : Instr} {is : List Instr} {s u t : State} {rs : List Word} (h : exec i s = .next u)
    (hrest : issueAll (is.map encode) u = some (rs, t)) :
    issueAll ((i :: is).map encode) s = some (u.rsp :: rs, t) :=
  issueAll_cons_eq_some.2 ⟨u, rs, (execute_of_decode (decode_encode i) s).trans h, hrest, rfl⟩

theorem writes_plugInstr (p : Sym26 × Sym26) : Writes (plugInstr p) (.pair p.1 p.2) :=
  .plugPair (symbolOf?_fieldOfSymbol p.1) (symbolOf?_fieldOfSymbol p.2)

/-- Disjoint pairs of unplugged letters are all accepted in CONFIG. -/
theorem issueAll_plugInstr {pairs : List (Sym26 × Sym26)} (hnodup : (pairLetters pairs).Nodup) {s : State}
    (hp : s.phase = .config) (hfree : ∀ k ∈ pairLetters pairs, swap s.plug k = k) :
    issueAll ((pairs.map plugInstr).map encode) (s.withRsp 0x00000000#32)
      = some (List.replicate pairs.length 0x00000000#32,
          (s.withPlug (addPairs s.plug pairs)).withRsp 0x00000000#32) := by
  induction pairs generalizing s with
  | nil => rfl
  | cons p ps ih =>
    obtain ⟨hne, h1, h2, hps⟩ := nodup_pairLetters_cons.1 hnodup
    simp only [pairLetters_cons, List.forall_mem_cons] at hfree
    obtain ⟨hfree1, hfree2, hfree⟩ := hfree
    have hexec := (writes_plugInstr p).exec (s := s.withRsp 0x00000000#32) hp ⟨hne, hfree1, hfree2⟩
    refine issueAll_encode_cons hexec (ih (s := s.withPlug (addPair s.plug p.1 p.2)) hps hp fun k hk => ?_)
    have hk1 : k ≠ p.1 := fun h => h1 (h ▸ hk)
    have hk2 : k ≠ p.2 := fun h => h2 (h ▸ hk)
    exact (swap_addPair_eq_self_iff hne).2 ⟨hk1, hk2, hfree k hk⟩

end Sys2Proof.Machine
end

section
/-! The boot sequence (70_reset_and_hazards.md R272, R273; 30_encoding.md R90, MACHINE): RESET forgets the state, the
configuration commands write the key, SET_POS enters READY; so machines booted alike encipher alike. -/

namespace Sys2Proof.Machine

/-- The operands of a MACHINE line (R90): types, ring offsets, reflector, pairs, positions. -/
structure MachineKey where
  (t0 t1 t2 : RotorType)
  (g0 g1 g2 : Sym26)
  u : ReflCode
  pairs : List (Sym26 × Sym26)
  (l m r : Sym26)

namespace MachineKey

variable (key : MachineKey) (s : State)

/-- The line itself. -/
def line : AsmLine :=
  .machine key.t0 key.t1 key.t2 key.g0 key.g1 key.g2 key.u key.pairs key.l key.m key.r

/-- The state with rotors and reflector written after RESET, no pair entered yet. -/
def wired : State :=
  { resetCore s with
    left := { valid := true, type := key.t0, pos := 0, ring := key.g0 }
    middle := { valid := true, type := key.t1, pos := 0, ring := key.g1 }
    right := { valid := true, type := key.t2, pos := 0, ring := key.g2 }
    refl := { valid := true, id := key.u } }

/-- The READY state that the line leaves. -/
def booted : State :=
  { s with
    phase := .ready
    left := { valid := true, type := key.t0, pos := initialPos s.cfg key.g0 key.l, ring := key.g0 }
    middle := { valid := true, type := key.t1, pos := initialPos s.cfg key.g1 key.m, ring := key.g1 }
    right := { valid := true, type := key.t2, pos := initialPos s.cfg key.g2 key.r, ring := key.g2 }
    refl := { valid := true, id := key.u }
    plug := addPairs identityPlug key.pairs
    rsp := 0x04000000#32 }

/-- The responses to the words of the line. -/
def responses : List Word := List.replicate (5 + key.pairs.length) 0x00000000#32 ++ [0x04000000#32]

theorem length_responses : key.responses.length = 6 + key.pairs.length := by
  simp [responses]; omega

end MachineKey

/-! ### The line, command by command -/

theorem writes_rotorInstr (i : SlotId) (t : RotorType) (g : Sym26) : Writes (rotorInstr i t g) (.slot i t g) :=
  .cfgRotor (BitVec.ofFin t) (by cases i <;> rfl) (symbolOf?_fieldOfSymbol g)

theorem writes_reflInstr (u : ReflCode) : Writes (reflInstr u) (.refl u) :=
  .cfgRefl (by revert u; decide)

/-- RESET and the four commands that write rotors and reflector, from any state. -/
theorem issueAll_wire (key : MachineKey) (s : State) :
    issueAll ([.reset, rotorInstr .left key.t0 key.g0, rotorInstr .middle key.t1 key.g1,
        rotorInstr .right key.t2 key.g2, reflInstr key.u].map encode) s
      = some (List.replicate 5 0x00000000#32, (key.wired s).withRsp 0x00000000#32) :=
  issueAll_encode_cons (exec_reset s) <|
  issueAll_encode_cons ((writes_rotorInstr ..).exec rfl trivial) <|
  issueAll_encode_cons ((writes_rotorInstr ..).exec rfl trivial) <|
  issueAll_encode_cons ((writes_rotorInstr ..).exec rfl trivial) <|
  issueAll_encode_cons ((writes_reflInstr ..).exec rfl trivial) rfl

/-- SET_POS, once rotors, reflector and plugboard are written. -/
theorem exec_setPosInstr_wired (key : MachineKey) (s : State) :
    exec (setPosInstr key.l key.m key.r)
        (((key.wired s).withPlug (addPairs identityPlug key.pairs)).withRsp 0x00000000#32)
      = .next (key.booted s) :=
  exec_setPos rfl (symbolOf?_fieldOfSymbol _) (symbolOf?_fieldOfSymbol _) (symbolOf?_fieldOfSymbol _) rfl

/-- The whole line, from any state. -/
theorem issueAll_machine {key : MachineKey} (hnodup : (pairLetters key.pairs).Nodup) (s : State) :
    issueAll (key.line.instrs.map encode) s = some (key.responses, key.booted s) := by
  have hpairs := issueAll_plugInstr hnodup (s := key.wired s) rfl fun k _ => swap_identityPlug k
  have hsetPos := issueAll_encode_cons (is := []) (exec_setPosInstr_wired key s) rfl
  have hall := issueAll_append (issueAll_append (issueAll_wire key s) hpairs) hsetPos
  rw [List.replicate_append_replicate] at hall
  rwa [← List.map_append, ← List.map_append] at hall

/-- Settles O58: the line's responses and the state it leaves, whose plugboard exchanges the letters of each pair. -/
theorem bootSequenceReachesReady : Obligations.BootSequenceReachesReady := by
  intro s t0 t1 t2 g0 g1 g2 u pairs l m r hnodup
  have hboot := issueAll_machine (key := ⟨t0, t1, t2, g0, g1, g2, u, pairs, l, m, r⟩) hnodup s
  refine ⟨_, hboot, rfl, fun p hp => swap_addPairs_of_mem hnodup hp identityPlug, fun k hk => ?_⟩
  have hnone : k ∉ pairLetters pairs := fun hmem => by
    obtain ⟨p, hp, hkp⟩ := mem_pairLetters.1 hmem
    exact hkp.elim (hk p hp).1 (hk p hp).2
  exact (swap_addPairs_of_notMem hnone identityPlug).trans (swap_identityPlug k)

/-! ### A text after the line -/

/-- Key presses take no notice of the host's fields. -/
theorem encipher_withHost (s : State) (p : List HostAction) (o : List Observation) (xs : List Sym26) :
    encipher (s.withHost p o) xs = encipher s xs := by
  induction xs generalizing s with
  | nil => rfl
  | cons x xs ih =>
    have hstep : stepController (s.withHost p o) = (stepController s).withHost p o := by
      simp only [stepController_eq]; rfl
    rw [encipher, hstep, ih]
    rfl

/-- Two machines with the same parameters, booted alike, differ in the host's fields only. -/
theorem MachineKey.booted_of_cfg_eq (key : MachineKey) {s s' : State} (h : s'.cfg = s.cfg) :
    key.booted s' = (key.booted s).withHost s'.pending s'.observed := by
  simp only [booted, h]; rfl

/-- A KEY line is the PRESS words of its letters (R90). -/
theorem map_encode_key (letters : List Sym26) :
    (AsmLine.key letters).instrs.map encode = letters.map pressWord := by
  simp only [AsmLine.instrs, List.map_map]
  exact List.map_congr_left fun x _ => (pressWord_eq_encode x).symm

/-- The MACHINE line and a KEY line, from any state: after the line's own responses, those to the letters put out. -/
theorem issueAll_machine_key {key : MachineKey} (hnodup : (pairLetters key.pairs).Nodup) (s : State)
    (letters : List Sym26) :
    ∃ rs t, issueAll ((key.line.instrs ++ (AsmLine.key letters).instrs).map encode) s = some (rs, t)
      ∧ (rs.drop (6 + key.pairs.length)).map rspD0 = (encipher (key.booted s) letters).map fieldOfSymbol := by
  obtain ⟨w, hpress⟩ := issueAll_pressWord (s := key.booted s) rfl 0x04000000#32 letters
  have hall := issueAll_append (issueAll_machine hnodup s) hpress
  rw [← map_encode_key, ← List.map_append] at hall
  refine ⟨_, _, hall, ?_⟩
  rw [List.drop_left' key.length_responses, map_rspD0_keyResponse]

/-- What one machine puts out, another with the same parameters, booted alike, takes back to the text: its plugboard is an
involution (R163). -/
theorem encipher_booted_encipher_booted {key : MachineKey} (hnodup : (pairLetters key.pairs).Nodup) {s s' : State}
    (h : s'.cfg = s.cfg) (letters : List Sym26) :
    encipher (key.booted s') (encipher (key.booted s) letters) = letters := by
  have hplug : PlugInvolution (key.booted s).plug := plugInvolution_addPairs hnodup
  rw [key.booted_of_cfg_eq h, encipher_withHost, encipher_encipher hplug]

/-- Settles O59: each run puts out what its booted machine enciphers, and the second enciphers back. -/
theorem rekeyedMachineDecrypts : Obligations.RekeyedMachineDecrypts := by
  intro s s' t0 t1 t2 g0 g1 g2 u pairs l m r letters hcfg hnodup
  let key : MachineKey := ⟨t0, t1, t2, g0, g1, g2, u, pairs, l, m, r⟩
  obtain ⟨rs, t, hfirst, hcipher⟩ := issueAll_machine_key (key := key) hnodup s letters
  obtain ⟨rs', t', hsecond, htext⟩ :=
    issueAll_machine_key (key := key) hnodup s' (encipher (key.booted s) letters)
  refine ⟨rs, t, encipher (key.booted s) letters, rs', t', hfirst, hcipher.symm, hsecond, htext.trans ?_⟩
  rw [encipher_booted_encipher_booted (key := key) hnodup hcfg]

end Sys2Proof.Machine
end
